-- ==== Sys2Proof/Word.lean ====
section
/-! DEFINITION. The word types of the SPI host transfer engine: registers are 32 bits wide (10_state.md),
buffers are bytes (20_memory.md R46), FIFO entries are 16-bit units (10_state.md R42). -/

namespace Sys2Proof

/-- A 32-bit register or command word (R12, R43, R61). -/
abbrev Word := BitVec 32

/-- One byte of system memory, and an event code (R46, R62). -/
abbrev Byte := BitVec 8

/-- One entry of a FIFO queue (R42). -/
abbrev FifoUnit := BitVec 16

end Sys2Proof
end

