-- ==== Sys2Proof/Syntax.lean ====
section
/-! DEFINITION. The instruction syntax: the nine rows of spec/opcode_table.json. No row has an operand field
(R61, R62): a command's operands are the argument registers its rule reads (R63), which are state. -/

namespace Sys2Proof

/-- The seven host commands (format C) and the two hardware events (format E) of R65. -/
inductive Instr where
  /-- ATTACH, command 0x01 (R81). -/
  | attach
  /-- DETACH, command 0x02 (R82). -/
  | detach
  /-- PREPARE_HW, command 0x03 (R83). -/
  | prepareHw
  /-- UNPREPARE_HW, command 0x04 (R84). -/
  | unprepareHw
  /-- PREPARE_MSG, command 0x05 (R85). -/
  | prepareMsg
  /-- TRANSFER_ONE, command 0x06 (R87). -/
  | transferOne
  /-- CALC_DIVISORS, command 0x07 (R80). -/
  | calcDivisors
  /-- EVT_IRQ, event 0x80 (R108). -/
  | evtIrq
  /-- EVT_DMA_RX_DONE, event 0x81 (R104). -/
  | evtDmaRxDone
  deriving DecidableEq, Repr, Inhabited

end Sys2Proof
end

