-- ==== Sys2Proof/Config.lean ====
section
/-! DEFINITION. What an implementation fixes (the parameters of R10) and what the environment is free to choose
(the schedule and the bytes of a buffer race). The parameters' VALUES are plain data in State.params, changed by no
rule, so that every claim about all states is a claim about all parameters. -/

namespace Sys2Proof

/-- The model arguments of R10 (and HOST_BASE of 10_state.md). -/
structure Params where
  /-- BASE_RATE: "natural number < 2^32". -/
  baseRate : Nat
  /-- PAGE_SIZE in bytes; even (R124 uses it). -/
  pageSize : Nat
  /-- ADDR_W: the width of a system-memory address. -/
  addrW : Nat
  /-- SSP_BASE: physical base address of the SSP register block, a multiple of 4. -/
  sspBase : Nat
  /-- HOST_BASE: base of the host port; HOST accesses are given by their offset from it. -/
  hostBase : Nat
  /-- RX_IRQ_LEVEL (R118). -/
  rxIrqLevel : Nat
  /-- TX_IRQ_LEVEL (R118). -/
  txIrqLevel : Nat
  deriving DecidableEq, Repr

/-- FIFO_DEPTH (R10): 8 entries. -/
def fifoDepth : Nat := 8

/-- The defaults of R10, with the spec's own vector value for BASE_RATE (95_test_vectors.md) and 0 for the two bases,
to which the spec gives no default. DESIGN CHOICE (log 8), unsafe for State.reset alone. -/
def Params.default : Params :=
  { baseRate := 14745600, pageSize := 4096, addrW := 32, sspBase := 0, hostBase := 0, rxIrqLevel := 4, txIrqLevel := 4 }

/-- One access of HOST: a read or a write of a host-port register at an offset (R71), or of a byte of system memory
(R56). -/
inductive HostOp where
  | read (off : Nat)
  | write (off : Nat) (v : Word)
  | memRead (addr : Nat)
  | memWrite (addr : Nat) (v : Byte)
  deriving DecidableEq, Repr, Inhabited

/-- Which agent moves next, with what the environment draws for that move (R14, R119, R120). An action that is not
enabled is no step (log 12). -/
inductive Action where
  /-- BLOCK takes its next step; `answer` is the draw a DMA-port request or an allocation made in that step gets
  (R15, R99, U4). -/
  | block (answer : Bool)
  /-- The event selector hands an event code to BLOCK (R62, R119). -/
  | event (code : Byte)
  /-- HOST makes one access. -/
  | host (op : HostOp)
  /-- The SSP shifts one unit; `v` is the received unit before it is cut to its width (R123). -/
  | shift (v : FifoUnit)
  /-- DMA_TX moves one unit (R124). -/
  | dmaTx
  /-- DMA_RX moves one unit (R124). -/
  | dmaRx
  /-- The flush-timeout clock expires (R125). -/
  | clock
  deriving DecidableEq, Repr, Inhabited

/-- FREE VALUE (log 2): the choice among the agents' steps, and every draw that goes with one, when the agenda in
State names none. R119: "The choice among enabled events is free". -/
opaque Config.schedule : Nat → Action

/-- FREE VALUE (log 15): what a byte reads as after a race (R56: "A HOST read returns any value"). -/
opaque Config.raceByte : Nat → Byte

end Sys2Proof
end

