-- ==== Sys2Proof/WellFormed.lean ====
section
/-! DEFINITION. Well-formedness of the syntax. An Instr has no fields, so every Instr is well-formed; what can be
ill-formed is the word that encodes one (R61, R62, R66) and a set of parameters (R10). -/

namespace Sys2Proof

/-- R61: bits [31:8] of a command word are reserved and must be 0. -/
def CmdWord.reservedClear (w : Word) : Bool := w >>> 8 == 0

/-- R62: a command word's OPC has bit 7 clear (event codes are never written by HOST). -/
def CmdWord.notEvent (w : Word) : Bool := !w.getLsbD 7

/-- R66: OPC 0x00 and OPC 0x08..0x7F are reserved. -/
def CmdWord.assigned (w : Word) : Bool := decide (1 ≤ w.toNat % 256 ∧ w.toNat % 256 ≤ 7)

/-- A command word that encodes a command (R61, R66). -/
def CmdWord.WellFormed (w : Word) : Bool := CmdWord.reservedClear w && CmdWord.notEvent w && CmdWord.assigned w

/-- R62: "Bit 7 is always 1" in an event code. -/
def EvtCode.isEvent (e : Byte) : Bool := e.getLsbD 7

/-- R66: event codes 0x82..0xFF are never produced. -/
def EvtCode.assigned (e : Byte) : Bool := decide (e.toNat ≤ 0x81)

/-- An event code that encodes an event (R62, R66). -/
def EvtCode.WellFormed (e : Byte) : Bool := EvtCode.isEvent e && EvtCode.assigned e

/-- The limits R10 sets on the parameters; R124 uses that PAGE_SIZE is even; addresses travel in 32-bit argument
registers (R23), so ADDR_W is at most 32. -/
def Params.WellFormed (p : Params) : Bool :=
  decide (p.baseRate < 2 ^ 32) && decide (0 < p.pageSize) && p.pageSize % 2 == 0 && decide (p.addrW ≤ 32)
    && p.sspBase % 4 == 0 && p.hostBase % 4 == 0

end Sys2Proof
end

