-- ==== Sys2Proof/Decode.lean ====
section
/-! DEFINITION. Decoding (R61 to R67): total on every command word and every event code, rejecting by name; then the
encoder, from the same opcode map. -/

namespace Sys2Proof

/-- Why a word or a code encodes nothing (R62, R66). -/
inductive Reject where
  /-- A command word with RSV ≠ 0. -/
  | reservedBits
  /-- OPC = 0x00. -/
  | opcodeZero
  /-- OPC in 0x08..0x7F. -/
  | opcodeReserved
  /-- OPC in 0x80..0xFF written by HOST. -/
  | opcodeIsEvent
  /-- An event code with bit 7 clear. -/
  | notAnEvent
  /-- An event code in 0x82..0xFF. -/
  | eventReserved
  deriving DecidableEq, Repr

/-- A row of the opcode map: the width of the word it is matched on, its mask and its match value (R65). -/
structure OpcodeRow where
  nbits : Nat
  mask : Nat
  pattern : Nat
  instr : Instr
  deriving DecidableEq, Repr

/-- The opcode map of R65: format C matched on the full 32-bit word, format E on the 8-bit event code. -/
def opcodeTable : List OpcodeRow :=
  [ ⟨32, 0xFFFFFFFF, 0x01, .attach⟩,
    ⟨32, 0xFFFFFFFF, 0x02, .detach⟩,
    ⟨32, 0xFFFFFFFF, 0x03, .prepareHw⟩,
    ⟨32, 0xFFFFFFFF, 0x04, .unprepareHw⟩,
    ⟨32, 0xFFFFFFFF, 0x05, .prepareMsg⟩,
    ⟨32, 0xFFFFFFFF, 0x06, .transferOne⟩,
    ⟨32, 0xFFFFFFFF, 0x07, .calcDivisors⟩,
    ⟨8, 0xFF, 0x80, .evtIrq⟩,
    ⟨8, 0xFF, 0x81, .evtDmaRxDone⟩ ]

/-- Does the row match the word w of nbits bits (R65)? -/
def rowMatches (nbits w : Nat) (r : OpcodeRow) : Bool := r.nbits == nbits && w &&& r.mask == r.pattern

/-- The instruction of the first row that matches; the rows do not overlap. -/
def lookupRow (nbits w : Nat) : Option Instr := (opcodeTable.find? (rowMatches nbits w)).map (·.instr)

/-- The name under which R66 rejects a command word. -/
def cmdReject (w : Word) : Reject :=
  if w >>> 8 ≠ 0 then .reservedBits
  else if w = 0 then .opcodeZero
  else if w.toNat < 0x80 then .opcodeReserved
  else .opcodeIsEvent

/-- Format C (R61, R65, R67): the command a word written to CMD encodes. -/
def decodeCmd (w : Word) : Except Reject Instr :=
  match lookupRow 32 w.toNat with
  | some i => .ok i
  | none => .error (cmdReject w)

/-- Format E (R62, R65, R66): the event a code encodes. -/
def decodeEvt (e : Byte) : Except Reject Instr :=
  match lookupRow 8 e.toNat with
  | some i => .ok i
  | none => .error (if e.getLsbD 7 then .eventReserved else .notAnEvent)

/-- The opcode or event code of an instruction (R65). -/
def instrCode : Instr → Byte
  | .attach => 0x01
  | .detach => 0x02
  | .prepareHw => 0x03
  | .unprepareHw => 0x04
  | .prepareMsg => 0x05
  | .transferOne => 0x06
  | .calcDivisors => 0x07
  | .evtIrq => 0x80
  | .evtDmaRxDone => 0x81

/-- Is the instruction of format E (a hardware event, R62)? -/
def isEvent : Instr → Bool
  | .evtIrq | .evtDmaRxDone => true
  | .attach | .detach | .prepareHw | .unprepareHw | .prepareMsg | .transferOne | .calcDivisors => false

/-- The width of the word an instruction is matched on: 32 for format C, 8 for format E (R61, R62). -/
def instrBits (i : Instr) : Nat := if isEvent i then 8 else 32

/-- Format C: the command word of an opcode, "word = zext32(code)" (R65). -/
def encodeCmd (i : Instr) : Word := (instrCode i).setWidth 32

/-- Format E: the event code (R65). -/
def encodeEvt (i : Instr) : Byte := instrCode i

/-- The encoding of an instruction as the opcode table numbers it: its width and its bits. -/
def encode (i : Instr) : Nat × Nat := (instrBits i, (instrCode i).toNat)

/-- The instruction the decoder reads from a word of the opcode table: 32 bits are a command word, 8 bits an event
code; there is no other width (R61, R62). -/
def decodeTableWord (nbits w : Nat) : Option Instr :=
  if nbits = 32 then (decodeCmd (BitVec.ofNat 32 w)).toOption
  else if nbits = 8 then (decodeEvt (BitVec.ofNat 8 w)).toOption
  else none

end Sys2Proof
end

