-- ==== Sys2Proof/Machine/State.lean ====
section
/-! DEFINITION. The machine's state as plain data: everything 10_state.md, 20_memory.md and 60_exceptions.md give the
block and its environment agents, the outcomes a step can stop with, and the state after reset (R132). -/

namespace Sys2Proof.Machine

/-- LIFE (R18): whether the controller instance exists. -/
inductive Life where
  | detached
  | attached
  deriving DecidableEq, Repr

/-- FSM (R20): the completion state machine. -/
inductive Fsm where
  | idle
  | transferActive
  | aborting
  | done
  deriving DecidableEq, Repr

/-- LEGMODE (R21): the path of the active leg. -/
inductive LegMode where
  | none
  | pio
  | dma
  deriving DecidableEq, Repr

/-- MSGST (R27): the status of the enclosing message. -/
inductive MsgStatus where
  | ok
  | ioError
  deriving DecidableEq, Repr

/-- The result codes of R68; codes 5 to 15 are never written. -/
inductive Result where
  | ok
  | wait
  | unsupportedRate
  | flushTimeout
  | dmaPrepareFailed
  deriving DecidableEq, Repr

/-- The fault reasons of R69 and R114. They are part of the state (FAULTS): raising one is a step of the machine. -/
inductive Reason where
  | illegalCommand
  | badState
  | malformedRequest
  | unwrittenArgument
  | shadowUnderflow
  | rxCursorOverflow
  | spuriousInterrupt
  | spuriousDmaCallback
  | txDmaStillActive
  | illegalAccess
  | txFifoOverflow
  | rxFifoUnderflow
  deriving DecidableEq, Repr

/-- A DMA direction d ∈ (RX, TX) (R13). -/
inductive Dir where
  | rx
  | tx
  deriving DecidableEq, Repr

/-- The transfer direction a SlaveConfig request sets (R99). -/
inductive DmaDirection where
  | devToMem
  | memToDev
  deriving DecidableEq, Repr

/-- What a segment points at (R34). -/
inductive SegKind where
  | buf
  | scratch
  deriving DecidableEq, Repr

/-- One scatter-gather segment (R34): for buf, addr is a buffer address, for scratch an offset into SCRATCH. -/
structure Seg where
  kind : SegKind
  addr : Nat
  length : Nat
  deriving DecidableEq, Repr

/-- The descriptor state DESC[d] (R35). -/
inductive Desc where
  | none
  | prepared
  | submitted
  | issued
  deriving DecidableEq, Repr

/-- A channel's slave configuration (R99): the peripheral-side address, the bus width in bytes, the direction. -/
structure Slave where
  addr : Nat
  width : Nat
  direction : DmaDirection
  deriving DecidableEq, Repr

/-- One DMA direction: CHAN[d] (R32, R99), SGT[d] (R34), DESC[d] (R35) and MOVED[d] (R124). SGT[d].nents is the number
of segments in segs, so it is not stored a second time. -/
structure Chan where
  held : Bool
  slave : Option Slave
  segs : List Seg
  mapped : Bool
  reallocs : Nat
  desc : Desc
  moved : Nat
  deriving DecidableEq, Repr

/-- The SSP's registers with storage and its internal state (R36, R37, R40, R42). DR, SR and IIR are computed. -/
structure Ssp where
  cr0 : Word
  cr1 : Word
  cpsr : Word
  txq : List FifoUnit
  rxq : List FifoUnit
  /-- RORIS_RAW, the sticky receive-overrun flag. -/
  roris : Bool
  deriving DecidableEq, Repr

/-- The argument registers (R23); none is the spec's own mark Unwritten. -/
structure Args where
  txAddr : Option Word
  rxAddr : Option Word
  len : Option Word
  cfg : Option Word
  speed : Option Word
  deriving DecidableEq, Repr

/-- LEG (R24), the latched leg descriptor. Its unit is computed from bpw. -/
structure Leg where
  txp : Bool
  rxp : Bool
  tx : Word
  rx : Word
  len : Word
  bpw : BitVec 5
  speed : Word
  cpol : Bool
  cpha : Bool
  deriving DecidableEq, Repr

/-- Positions of a CR1 read-modify-write, two BLOCK steps (R58): v is the value the first one read. -/
inductive RmwPos where
  | read
  | write (v : Word)
  deriving DecidableEq, Repr

/-- Positions of one FIFO engine invocation (R90). -/
inductive EnginePos where
  | sr
  | pop
  | push
  deriving DecidableEq, Repr

/-- Positions of ATTACH (R81). -/
inductive AttachPos where
  | writeCr1
  | acquireRx
  | acquireTx
  | releaseRx
  deriving DecidableEq, Repr

/-- Positions of DETACH (R82). -/
inductive DetachPos where
  | releaseTx
  | releaseRx
  deriving DecidableEq, Repr

/-- Positions of the flush of PREPARE_MSG (R86). -/
inductive FlushPos where
  | readSr
  | readDr
  deriving DecidableEq, Repr

/-- Positions of a DMA start and of its unwinding (R101, R102, R103); each is one DmaCall. -/
inductive DmaPos where
  | slaveConfig (d : Dir)
  | allocTable (d : Dir)
  | map (d : Dir)
  | prep (d : Dir)
  | unmapFailed (d : Dir)
  | setCallback
  | submit (d : Dir)
  | issue (d : Dir)
  | unwindTerminate (d : Dir)
  | unwindUnmap (d : Dir)
  deriving DecidableEq, Repr

/-- Positions of TRANSFER_ONE (R87): its start, WriteConfig (R89, with the divisors it still writes), then the PIO arm
(R95) or the DMA start (R102). -/
inductive TransferPos where
  | start
  | writeCpsr (p s : Nat)
  | writeCr0 (s : Nat)
  | engine (k : EnginePos)
  | cr1 (k : RmwPos)
  | dma (k : DmaPos)
  deriving DecidableEq, Repr

/-- Positions of EVT_IRQ (R108, R109, R110). -/
inductive IrqPos where
  | start
  | readIir
  | writeIcr
  | engine (k : EnginePos)
  | cr1 (k : RmwPos)
  deriving DecidableEq, Repr

/-- Positions of EVT_DMA_RX_DONE (R104). -/
inductive DmaDonePos where
  | start
  | unmapRx
  | unmapTx
  deriving DecidableEq, Repr

/-- PH (R22): Ready, or Busy(op, k) with the position k reached in op's rule. CALC_DIVISORS has no step of its own
(R80), so its one position is its start. -/
inductive Phase where
  | ready
  | attach (k : AttachPos)
  | detach (k : DetachPos)
  | prepareHw (k : RmwPos)
  | unprepareHw (k : RmwPos)
  | prepareMsg (k : FlushPos)
  | transferOne (k : TransferPos)
  | calcDivisors
  | evtIrq (k : IrqPos)
  | evtDmaRxDone (k : DmaDonePos)
  deriving DecidableEq, Repr

/-- A region the launch memory admits (R47). -/
structure Region where
  base : Nat
  size : Nat
  deriving DecidableEq, Repr

/-- The whole state of BLOCK and of its environment agents. -/
structure State where
  /-- The model arguments of R10, fixed for the machine. -/
  params : Params
  /-- The regions the launch memory admits (R47), fixed for the machine. -/
  regions : List Region
  life : Life
  hwp : Bool
  clken : Bool
  fsm : Fsm
  legMode : LegMode
  ph : Phase
  args : Args
  leg : Leg
  rxc : Word
  txc : Word
  fifoLvl : Nat
  msgSt : MsgStatus
  lastRes : Result
  /-- FAULTS (R29): sorted by code, no repeats. -/
  faults : List Reason
  faultCode : Byte
  divRes : Word
  minHz : Word
  maxHz : Word
  finCnt : Word
  dmaAv : Bool
  /-- SCRATCH.valid (R33); every byte of the page reads 0. -/
  scratchValid : Bool
  rx : Chan
  tx : Chan
  /-- DESC[RX].cb (R35). -/
  cb : Bool
  /-- PEND_RX (R124). -/
  pendRx : Bool
  ssp : Ssp
  /-- CLOCK.expired (R125). -/
  expired : Bool
  /-- System memory (R46): sorted by address, no repeats, no entry equal to what an unlisted address reads as. -/
  mem : List Host.Cell
  /-- The model's own (log 15): addresses HOST wrote in a race; a draw at every later read by BLOCK or DMA (R56). Sorted,
  no repeats. -/
  raced : List Nat
  /-- The model's own (log 15): those of raced that no rule has written since, a draw to HOST too. Sorted, no repeats. -/
  unsettled : List Nat
  /-- The model's own (log 15): how many raced bytes have been drawn. -/
  draws : Nat
  /-- The model's own (log 3): the environment's draw for the BLOCK step being taken. -/
  answer : Bool
  /-- The model's own (log 16): the value HOST's last read returned. -/
  hostData : Word
  /-- The model's own (log 16): the Finalize notifications sent to HOST (R9, R15), latest first. -/
  finLog : List MsgStatus
  /-- The model's own (log 2): the outside world's next actions, oldest first. -/
  agenda : List Action
  /-- The model's own (log 2): how many choices the free schedule has made. -/
  tick : Nat
  deriving DecidableEq, Repr

/-- Why BLOCK has no step. These are not the spec's faults (those are Reason, and raising one is a next state): a meaning
answers one of these where the spec gives BLOCK no step, and step then leaves the state as it is (log 12). -/
inductive Fault where
  /-- A fault has been raised, so "BLOCK takes no further step, ever" (R115). Raised by every meaning in such a state.
  Safe: nothing happens. -/
  | blockStopped
  /-- Another instruction is in execution (R120: "starts no other event"). Raised by every meaning offered at a PH of
  another instruction. Safe: nothing happens. -/
  | blockBusy
  /-- The launch memory refuses a buffer byte, which "gives the accessing agent no step" (R47). Raised by the pop and push
  steps of TRANSFER_ONE and EVT_IRQ. Safe: nothing happens. -/
  | bufferRefused
  /-- An SSP access at an offset at which R46 gives no register, or a write of SR, which is read-only (R39). Raised by
  ioRead32 and ioWrite32; no instruction makes one. Safe: nothing happens. -/
  | noSspRegister
  deriving DecidableEq, Repr

/-- Why an input has no meaning. -/
inductive Refusal where
  /-- An instruction rejected by name in exec (none is). Safe. -/
  | notModelled (mnemonic : String)
  /-- An event code with bit 7 clear or in 0x82..0xFF: "never produced, and a model must refuse them" (R62, R66, U15).
  Raised by step when the selector hands such a code over. Safe. -/
  | reservedEvent
  deriving DecidableEq, Repr

/-- The outcome of a meaning and of a step. -/
abbrev Out := Host.Outcome State Fault Refusal

/-- A DMA direction after reset (R132): no channel, an empty table, no descriptor, nothing moved. -/
def Chan.reset : Chan :=
  { held := false, slave := none, segs := [], mapped := false, reallocs := 0, desc := .none, moved := 0 }

/-- The states R132 allows after reset: the parameters, the launch memory, and the draws of CR0, CR1, CPSR and RXQ are
arguments. -/
def State.resetWith (p : Params) (regions : List Region) (mem : List Host.Cell) (cr0 cr1 cpsr : Word)
    (rxq : List FifoUnit) : State :=
  { params := p
    regions := regions
    life := .detached
    hwp := false
    clken := false
    fsm := .idle
    legMode := .none
    ph := .ready
    args := { txAddr := none, rxAddr := none, len := none, cfg := none, speed := none }
    leg := { txp := false, rxp := false, tx := 0, rx := 0, len := 0, bpw := 0, speed := 0, cpol := false, cpha := false }
    rxc := 0
    txc := 0
    fifoLvl := 0
    msgSt := .ok
    lastRes := .ok
    faults := []
    faultCode := 0
    divRes := 0
    minHz := 0
    maxHz := 0
    finCnt := 0
    dmaAv := false
    scratchValid := false
    rx := Chan.reset
    tx := Chan.reset
    cb := false
    pendRx := false
    ssp := { cr0 := cr0, cr1 := cr1, cpsr := cpsr, txq := [], rxq := rxq, roris := false }
    expired := false
    mem := mem
    raced := []
    unsettled := []
    draws := 0
    answer := false
    hostData := 0
    finLog := []
    agenda := []
    tick := 0 }

/-- The state after reset (R132). Where R132 names a draw it takes the value of 95_test_vectors.md (CR0 = CR1 = CPSR = 0,
RXQ empty): DESIGN CHOICE (log 5, log 6), as are the parameters (log 8), the launch memory (log 9) and LEG (log 7). -/
def State.reset : State :=
  State.resetWith Params.default [{ base := 0, size := 2 ^ 32 }] [] 0 0 0 []

end Sys2Proof.Machine
end

