-- ==== Sys2Proof/Machine/Memory.lean ====
section
/-! DEFINITION. System memory as plain data: the one definition of what an unlisted address reads as, reading and writing
a byte of the list in its canonical form, and the sorted address list of the raced bytes. -/

namespace Sys2Proof.Machine

/-- What an address that is not listed reads as: DESIGN CHOICE (log 9), the spec leaves the launch contents to the
platform (R47, R132). -/
def Memory.unlisted : Byte := 0

/-- The byte at an address. -/
def Memory.read : List Host.Cell → Nat → Byte
  | [], _ => Memory.unlisted
  | (b, w) :: m, a => if a = b then w else Memory.read m a

/-- One cell in front of a list, dropped when it equals what an unlisted address reads as. -/
def Memory.cons (a : Nat) (v : Byte) (m : List Host.Cell) : List Host.Cell :=
  if v = Memory.unlisted then m else (a, v) :: m

/-- Write a byte, keeping the canonical form. -/
def Memory.write : List Host.Cell → Nat → Byte → List Host.Cell
  | [], a, v => Memory.cons a v []
  | (b, w) :: m, a, v =>
    if a < b then Memory.cons a v ((b, w) :: m)
    else if a = b then Memory.cons a v m
    else (b, w) :: Memory.write m a v

/-- Every address listed is above a. -/
def Memory.above (a : Nat) : List Host.Cell → Bool
  | [] => true
  | (b, _) :: m => decide (a < b) && Memory.above a m

/-- The canonical form: addresses strictly rising, no entry equal to what an unlisted address reads as. -/
def Memory.wf : List Host.Cell → Bool
  | [] => true
  | (b, w) :: m => w != Memory.unlisted && Memory.above b m && Memory.wf m

/-- Add an address to a sorted list without repeats. -/
def addrInsert (a : Nat) : List Nat → List Nat
  | [] => [a]
  | b :: l => if a < b then a :: b :: l else if a = b then b :: l else b :: addrInsert a l

/-- Take an address out of a sorted list. -/
def addrErase (a : Nat) : List Nat → List Nat
  | [] => []
  | b :: l => if a = b then addrErase a l else b :: addrErase a l

/-- Does the launch memory admit an access to this byte (R46, R47)? -/
def admitted (s : State) (a : Nat) : Bool :=
  decide (a < 2 ^ s.params.addrW) && s.regions.any fun r => decide (r.base ≤ a) && decide (a < r.base + r.size)

/-- BLOCK or a DMA channel reads one byte of system memory; none where the memory refuses the access (R47). A raced byte
is a draw (R56). -/
def readByte (s : State) (a : Nat) : Option (Byte × State) :=
  if admitted s a then
    if s.raced.contains a then some (Config.raceByte s.draws, { s with draws := s.draws + 1 })
    else some (Memory.read s.mem a, s)
  else none

/-- BLOCK or a DMA channel writes one byte of system memory; none where the memory refuses the access (R47). HOST then sees
the byte written, and to BLOCK and DMA a raced byte stays a draw (R56). -/
def writeByte (s : State) (a : Nat) (v : Byte) : Option State :=
  if admitted s a then some { s with mem := Memory.write s.mem a v, unsettled := addrErase a s.unsettled } else none

/-- MemRead(a, n) for a unit of n ∈ (1, 2) bytes, little-endian (R14, R48). -/
def memRead (s : State) (a n : Nat) : Option (FifoUnit × State) :=
  match readByte s a with
  | none => none
  | some (lo, s1) =>
    if n = 1 then some (lo.setWidth 16, s1)
    else
      match readByte s1 (a + 1) with
      | none => none
      | some (hi, s2) => some (hi ++ lo, s2)

/-- MemWrite(a, n, v) for a unit of n ∈ (1, 2) bytes, little-endian (R14, R48). -/
def memWrite (s : State) (a n : Nat) (v : FifoUnit) : Option State :=
  match writeByte s a (v.setWidth 8) with
  | none => none
  | some s1 => if n = 1 then some s1 else writeByte s1 (a + 1) ((v >>> 8).setWidth 8)

end Sys2Proof.Machine
end

