-- ==== Sys2Proof/Machine/Flags.lean ====
section
/-! DEFINITION. Every flag and status value the spec computes: the codes of the enumerations, SR (R39), the interrupt
conditions, IIR and the line (R118), STATUS (R44), SGRX and SGTX (R34), DIVRES (R30). -/

namespace Sys2Proof.Machine

/-- A flag as the low bit of a word. -/
def bit (b : Bool) : Word := if b then 1 else 0

/-- The code of a fault reason (R69). -/
def reasonCode : Reason → Byte
  | .illegalCommand => 1
  | .badState => 2
  | .malformedRequest => 3
  | .unwrittenArgument => 4
  | .shadowUnderflow => 5
  | .rxCursorOverflow => 6
  | .spuriousInterrupt => 7
  | .spuriousDmaCallback => 8
  | .txDmaStillActive => 9
  | .illegalAccess => 10
  | .txFifoOverflow => 11
  | .rxFifoUnderflow => 12

/-- The result code of LASTRES (R68). -/
def resultCode : Result → Word
  | .ok => 0
  | .wait => 1
  | .unsupportedRate => 2
  | .flushTimeout => 3
  | .dmaPrepareFailed => 4

/-- The number of an FSM state (R20). -/
def fsmCode : Fsm → Word
  | .idle => 0
  | .transferActive => 1
  | .aborting => 2
  | .done => 3

/-- The number of a LEGMODE (R21). -/
def legModeCode : LegMode → Word
  | .none => 0
  | .pio => 1
  | .dma => 2

/-- The number of a MSGST (R27). -/
def msgStCode : MsgStatus → Word
  | .ok => 0
  | .ioError => 1

/-- The number of a LIFE (R18). -/
def lifeCode : Life → Word
  | .detached => 0
  | .attached => 1

/-- Has a fault been raised (R115)? BLOCK then takes no further step. -/
def stopped (s : State) : Bool := !s.faults.isEmpty

/-- Receive not empty, SR bit 2 (R39). -/
def rne (p : Ssp) : Bool := !p.rxq.isEmpty

/-- SR (R39), from the FIFO state at the moment of the read. -/
def srValue (p : Ssp) : Word :=
  bit (p.txq.length == 0)
    ||| bit (decide (p.txq.length < fifoDepth)) <<< 1
    ||| bit (rne p) <<< 2
    ||| bit (p.rxq.length == fifoDepth) <<< 3
    ||| bit (decide (0 < p.txq.length)) <<< 4

/-- The receive condition RIS (R118). -/
def ris (q : Params) (p : Ssp) : Bool := decide (q.rxIrqLevel ≤ p.rxq.length)

/-- The transmit condition TIS (R118). -/
def tis (q : Params) (p : Ssp) : Bool := decide (p.txq.length ≤ q.txIrqLevel)

/-- IIR (R41, R118): each condition with its enable. -/
def iirValue (q : Params) (p : Ssp) : Word :=
  bit (ris q p && p.cr1.getLsbD 0)
    ||| bit (tis q p && p.cr1.getLsbD 1) <<< 1
    ||| bit (p.roris && p.cr1.getLsbD 2) <<< 2

/-- The SSP's interrupt line (R118). -/
def irqLine (q : Params) (p : Ssp) : Bool :=
  (ris q p && p.cr1.getLsbD 0) || (tis q p && p.cr1.getLsbD 1) || (p.roris && p.cr1.getLsbD 2)

/-- STATUS (R44). -/
def statusValue (s : State) : Word :=
  fsmCode s.fsm
    ||| legModeCode s.legMode <<< 2
    ||| lifeCode s.life <<< 4
    ||| bit s.hwp <<< 5
    ||| bit s.dmaAv <<< 6
    ||| bit (s.ph != .ready) <<< 7
    ||| resultCode s.lastRes <<< 8
    ||| msgStCode s.msgSt <<< 12
    ||| ((BitVec.ofNat 4 s.fifoLvl).setWidth 32) <<< 16
    ||| bit s.clken <<< 20
    ||| bit (stopped s) <<< 31

/-- SGT[d].nents (R34): the number of segments allocated. -/
def nents (c : Chan) : Nat := c.segs.length

/-- SGRX, SGTX (R34): nents mod 2^16, reallocs mod 2^15, mapped. -/
def sgValue (c : Chan) : Word :=
  (BitVec.ofNat 16 (nents c)).setWidth 32
    ||| ((BitVec.ofNat 15 c.reallocs).setWidth 32) <<< 16
    ||| bit c.mapped <<< 31

/-- DIVRES of a divisor pair (R30, R80): p in [7:0], s in [15:8]. -/
def divResOk (p s : Nat) : Word :=
  ((BitVec.ofNat 8 s).setWidth 32) <<< 8 ||| (BitVec.ofNat 8 p).setWidth 32

/-- DIVRES when the solver fails (R80): FAIL in bit 31. -/
def divResFail : Word := 0x80000000

end Sys2Proof.Machine
end

