-- ==== Sys2Proof/Machine/Operands.lean ====
section
/-! DEFINITION. Operand forms: the fields of ARG_CFG (R63), the request TRANSFER_ONE assembles and its validation (R88),
the unit of a leg (R11, R24), the configuration words (R89), the scatter-gather geometry of a leg (R100) and the segment
that holds a byte (R124). -/

namespace Sys2Proof.Machine

/-- bpw = zext(ARG_CFG[4:0]) (R63). -/
def cfgBpw (c : Word) : BitVec 5 := c.setWidth 5

/-- txp = ARG_CFG[8] (R63). -/
def cfgTxp (c : Word) : Bool := c.getLsbD 8

/-- rxp = ARG_CFG[9] (R63). -/
def cfgRxp (c : Word) : Bool := c.getLsbD 9

/-- cpha = ARG_CFG[12] (R63). -/
def cfgCpha (c : Word) : Bool := c.getLsbD 12

/-- cpol = ARG_CFG[13] (R63). -/
def cfgCpol (c : Word) : Bool := c.getLsbD 13

/-- rsv = ARG_CFG & ~0x0000331F, which must be 0 (R63). -/
def cfgRsv (c : Word) : Word := c &&& ~~~0x0000331F#32

/-- The SPI mode number (R64). -/
def spiMode (cpol cpha : Bool) : Word := bit cpol <<< 1 ||| bit cpha

/-- unit(bpw): 1 byte up to 8 bits, else 2 (R11). -/
def unitOf (bpw : BitVec 5) : Nat := if bpw.toNat ≤ 8 then 1 else 2

/-- LEG.unit (R24). -/
def legUnit (l : Leg) : Nat := unitOf l.bpw

/-- The operands TRANSFER_ONE reads, in the order of R63; none when one it reads is Unwritten (R23, R87). An address
that is not read is 0 and meaningless (R24; log 7). -/
def readRequest (a : Args) : Option (Word × Leg) :=
  match a.cfg, a.len, a.speed with
  | some c, some len, some speed =>
    match (if cfgTxp c then a.txAddr else some 0), (if cfgRxp c then a.rxAddr else some 0) with
    | some tx, some rx =>
      some (c, { txp := cfgTxp c, rxp := cfgRxp c, tx := tx, rx := rx, len := len, bpw := cfgBpw c,
                 speed := speed, cpol := cfgCpol c, cpha := cfgCpha c })
    | _, _ => none
  | _, _, _ => none

/-- A present buffer's address is one Validate admits (R88 items 4, 5, 6). -/
def addrValid (p : Params) (l : Leg) (present : Bool) (a : Word) : Bool :=
  !present
    || (!(decide (8 < l.bpw.toNat) && a.toNat % 2 == 1)
        && decide (a.toNat < 2 ^ p.addrW)
        && decide (a.toNat + l.len.toNat ≤ 2 ^ p.addrW))

/-- Validate() answers that the request is well formed (R88, the negation of its items 1 to 6). -/
def requestValid (p : Params) (c : Word) (l : Leg) : Bool :=
  decide (4 ≤ l.bpw.toNat) && decide (l.bpw.toNat ≤ 16)
    && cfgRsv c == 0
    && !(decide (8 < l.bpw.toNat) && l.len.toNat % 2 == 1)
    && addrValid p l l.txp l.tx
    && addrValid p l l.rxp l.rx

/-- The value WriteConfig writes to CPSR: zext32(p[7:0]) (R89). -/
def cpsrWord (p : Nat) : Word := (BitVec.ofNat 8 p).setWidth 32

/-- The value WriteConfig writes to CR0: SCR, CPOL, CPHA, DSS = bpw - 1 (R89). -/
def cr0Word (l : Leg) (s : Nat) : Word :=
  ((BitVec.ofNat 8 s).setWidth 32) <<< 8 ||| bit l.cpol <<< 7 ||| bit l.cpha <<< 6 ||| (l.bpw.setWidth 32 - 1)

/-- The six SSP registers (R36 to R41); iir is IIR when read and ICR when written. -/
inductive SspReg where
  | cr0
  | cr1
  | dr
  | sr
  | cpsr
  | iir
  deriving DecidableEq, Repr

/-- The offset of an SSP register (R46(b)). -/
def sspOffset : SspReg → Nat
  | .cr0 => 0x00
  | .cr1 => 0x04
  | .dr => 0x08
  | .sr => 0x0C
  | .cpsr => 0x10
  | .iir => 0x14

/-- The SSP register at an offset from SSP_BASE; none where R46(b) gives none. -/
def sspRegAt : Nat → Option SspReg
  | 0x00 => some .cr0
  | 0x04 => some .cr1
  | 0x08 => some .dr
  | 0x0C => some .sr
  | 0x10 => some .cpsr
  | 0x14 => some .iir
  | _ => none

/-- The physical address of an offset in the SSP register space (R14, R46(b)). -/
def sspAddr (p : Params) (off : Nat) : Nat := p.sspBase + off

/-- DR_PHYS (R10, R38). -/
def drPhys (p : Params) : Nat := sspAddr p (sspOffset .dr)

/-- The number of segments of a leg: ceil(len / PAGE_SIZE) (R100). -/
def segCount (p : Params) (l : Leg) : Nat := (l.len.toNat + p.pageSize - 1) / p.pageSize

/-- Is the direction's buffer present (R24)? -/
def legPresent (l : Leg) : Dir → Bool
  | .rx => l.rxp
  | .tx => l.txp

/-- The direction's buffer address (R24). -/
def legAddr (l : Leg) : Dir → Nat
  | .rx => l.rx.toNat
  | .tx => l.tx.toNat

/-- Segment i of a leg in one direction (R100). -/
def segmentOf (p : Params) (l : Leg) (d : Dir) (i : Nat) : Seg :=
  let length := min p.pageSize (l.len.toNat - i * p.pageSize)
  if legPresent l d then { kind := .buf, addr := legAddr l d + i * p.pageSize, length := length }
  else { kind := .scratch, addr := 0, length := length }

/-- The whole table of a leg in one direction (R100). -/
def segmentsOf (p : Params) (l : Leg) (d : Dir) : List Seg :=
  (List.range (segCount p l)).map (segmentOf p l d)

/-- T[d]: the sum of the table's segment lengths (R124). -/
def segTotal : List Seg → Nat
  | [] => 0
  | g :: gs => g.length + segTotal gs

/-- The segment that holds a byte of the table, and the offset in it (R124). -/
def segAt : List Seg → Nat → Option (Seg × Nat)
  | [], _ => none
  | g :: gs, n => if n < g.length then some (g, n) else segAt gs (n - g.length)

/-- The transfer direction of a SlaveConfig request (R99, R101). -/
def slaveDirection : Dir → DmaDirection
  | .rx => .devToMem
  | .tx => .memToDev

/-- DSS, CR0 bits [3:0] (R36). -/
def dssOf (p : Ssp) : Nat := (p.cr0.setWidth 4).toNat

/-- A received unit cut to the leg's width: below 2^(CR0[3:0] + 1) (R123). -/
def cutReceived (p : Ssp) (v : FifoUnit) : FifoUnit := BitVec.ofNat 16 (v.toNat % 2 ^ (dssOf p + 1))

end Sys2Proof.Machine
end

