-- ==== Sys2Proof/Machine/Ops.lean ====
section
/-! DEFINITION. The shared operations: raising a fault (R115), returning a result and emitting Finalize (R15), starting an
instruction (R70, R119), the SSP register accesses (R14, R38 to R41), and the access to a DMA direction. -/

namespace Sys2Proof.Machine

/-- Add a reason to the fault set: sorted by code, no repeats (R29). -/
def addReason (r : Reason) : List Reason → List Reason
  | [] => [r]
  | q :: l =>
    if reasonCode r < reasonCode q then r :: q :: l
    else if r = q then q :: l
    else q :: addReason r l

/-- `raise Fault(reason)` (R15, R115), the one way a fault is taken: the reason joins FAULTS, FAULTCODE keeps the first
reason, PH and everything else keep their values; BLOCK has no further step (blockStopped). -/
def raised (r : Reason) (s : State) : State :=
  { s with
    faults := addReason r s.faults
    faultCode := if s.faultCode = 0 then reasonCode r else s.faultCode }

/-- `raise Fault(reason)` as the outcome of a step: the machine goes on in the state the fault leaves (log 10). -/
def raiseFault (r : Reason) (s : State) : Out := .next (raised r s)

/-- The state `ph <- target` leaves (R13). -/
def moveTo (p : Phase) (s : State) : State := { s with ph := p }

/-- `ph <- target` (R13). -/
def goto (p : Phase) (s : State) : Out := .next (moveTo p s)

/-- The state `return Result(code)` leaves: LASTRES written, PH back to Ready (R15). -/
def returned (c : Result) (s : State) : State := { s with lastRes := c, ph := .ready }

/-- `return Result(code)` (R15). -/
def ret (c : Result) (s : State) : Out := .next (returned c s)

/-- `emit Finalize(MSGST)`: the notification to HOST, and FINCNT one larger modulo 2^32 (R15, R31). -/
def finalized (s : State) : State := { s with finCnt := s.finCnt + 1, finLog := s.msgSt :: s.finLog }

/-- Go on with what a primitive gave, or stop with its outcome. -/
def bindOut {α : Type} (m : Except Out α) (k : α → Out) : Out :=
  match m with
  | .ok a => k a
  | .error o => o

/-- The state each command needs (R70); an event has no such check. -/
def requiredState (s : State) : Instr → Bool
  | .attach => s.life == .detached
  | .detach => s.life == .detached || (s.life == .attached && s.fsm == .idle && !s.hwp)
  | .prepareHw => s.life == .attached && s.fsm == .idle && !s.hwp
  | .unprepareHw => s.life == .attached && s.fsm == .idle && s.hwp
  | .prepareMsg => s.life == .attached && s.fsm == .idle && s.hwp
  | .transferOne => s.life == .attached && s.fsm == .idle && s.hwp
  | .calcDivisors => s.life == .attached
  | .evtIrq => true
  | .evtDmaRxDone => true

/-- Start a command at PH = Ready: the state check comes before any state changes (R70), so a BadState leaves PH at Ready
(log 11). -/
def startCommand (i : Instr) (s : State) (begin : State → Out) : Out :=
  if requiredState s i then begin s else raiseFault .badState s

/-- The instruction a PH is in the execution of (R22). -/
def phaseOp : Phase → Option Instr
  | .ready => none
  | .attach _ => some .attach
  | .detach _ => some .detach
  | .prepareHw _ => some .prepareHw
  | .unprepareHw _ => some .unprepareHw
  | .prepareMsg _ => some .prepareMsg
  | .transferOne _ => some .transferOne
  | .calcDivisors => some .calcDivisors
  | .evtIrq _ => some .evtIrq
  | .evtDmaRxDone _ => some .evtDmaRxDone

/-- The outcome of a meaning offered where BLOCK has no step for it: BLOCK is stopped (R115), else it is busy with
another instruction (R120). -/
def noStep (s : State) : Out := if stopped s then .fault .blockStopped else .fault .blockBusy

/-- The state with another SSP. -/
def setSsp (s : State) (p : Ssp) : State := { s with ssp := p }

/-- A read of an SSP register: the value and the state with the read's side effect. A DR read pops RXQ, and faults when it
is empty (R38); the others have none (R51). -/
def readSsp (r : SspReg) (s : State) : Except Out (Word × State) :=
  match r with
  | .cr0 => .ok (s.ssp.cr0, s)
  | .cr1 => .ok (s.ssp.cr1, s)
  | .sr => .ok (srValue s.ssp, s)
  | .cpsr => .ok (s.ssp.cpsr, s)
  | .iir => .ok (iirValue s.params s.ssp, s)
  | .dr =>
    match s.ssp.rxq with
    | [] => .error (raiseFault .rxFifoUnderflow s)
    | u :: q => .ok (u.setWidth 32, setSsp s { s.ssp with rxq := q })

/-- A write of an SSP register: the state it leaves. A DR write pushes v[15:0] onto TXQ, and faults when it is full (R38);
any ICR write clears RORIS_RAW (R41); SR is read-only (R39). -/
def writeSsp (r : SspReg) (v : Word) (s : State) : Except Out State :=
  match r with
  | .cr0 => .ok (setSsp s { s.ssp with cr0 := v })
  | .cr1 => .ok (setSsp s { s.ssp with cr1 := v })
  | .sr => .error (.fault .noSspRegister)
  | .cpsr => .ok (setSsp s { s.ssp with cpsr := v })
  | .iir => .ok (setSsp s { s.ssp with roris := false })
  | .dr =>
    if s.ssp.txq.length < fifoDepth then .ok (setSsp s { s.ssp with txq := s.ssp.txq ++ [v.setWidth 16] })
    else .error (raiseFault .txFifoOverflow s)

/-- IoRead32(off) (R14): a read of the SSP register at SSP_BASE + off. -/
def ioRead32 (off : Nat) (s : State) : Except Out (Word × State) :=
  match sspRegAt off with
  | some r => readSsp r s
  | none => .error (.fault .noSspRegister)

/-- IoWrite32(off, v) (R14): a write of the SSP register at SSP_BASE + off. -/
def ioWrite32 (off : Nat) (v : Word) (s : State) : Except Out State :=
  match sspRegAt off with
  | some r => writeSsp r v s
  | none => .error (.fault .noSspRegister)

/-- One position of a CR1 read-modify-write (R37, R58): `at` names PH for a position, `f` is the new value, `k` what
follows the write. -/
def cr1Rmw (here : RmwPos → Phase) (f : Word → Word) (k : State → Out) : RmwPos → State → Out
  | .read, s => bindOut (ioRead32 (sspOffset .cr1) s) fun r => goto (here (.write r.1)) r.2
  | .write v, s => bindOut (ioWrite32 (sspOffset .cr1) (f v) s) k

/-- CR1 bit 4, SSE (R37). -/
def sseMask : Word := 0x10

/-- IRQEN, the mask of RIE, TIE and RORIE (R37). -/
def irqEnMask : Word := 0x7

/-- A direction's channel, table, descriptor and moved bytes. -/
def chan (s : State) : Dir → Chan
  | .rx => s.rx
  | .tx => s.tx

/-- Replace a direction's channel, table, descriptor and moved bytes. -/
def setChan (s : State) (d : Dir) (c : Chan) : State :=
  match d with
  | .rx => { s with rx := c }
  | .tx => { s with tx := c }

end Sys2Proof.Machine
end

