-- ==== Sys2Proof/Machine/Dma.lean ====
section
/-! DEFINITION. The DMA orchestrator (43_dma.md): preparing a direction, starting a leg, unwinding a failed start. Each
position is one DmaCall; a request that may fail (R99) gets the environment's draw `answer`. -/

namespace Sys2Proof.Machine

/-- PH at a position of the DMA start. -/
def dmaAt (k : DmaPos) : Phase := .transferOne (.dma k)

/-- The end of DmaUnwind (R103) and of the failed start: "DMA_PREPARE_FAILED" (R102). -/
def unwindDone (s : State) : State := returned .dmaPrepareFailed s

/-- DmaUnwind's unmapping, from RX on (R103). -/
def unwindUnmapRx (s : State) : State := if s.rx.mapped then moveTo (dmaAt (.unwindUnmap .rx)) s else unwindDone s

/-- DmaUnwind's unmapping, from TX on (R103). -/
def unwindUnmapTx (s : State) : State := if s.tx.mapped then moveTo (dmaAt (.unwindUnmap .tx)) s else unwindUnmapRx s

/-- DmaUnwind once both directions' descriptors are gone: DESC[RX].cb <- 0, then the unmapping (R103). -/
def unwindTables (s : State) : State := unwindUnmapTx { s with cb := false }

/-- DESC[d] <- None. -/
def dropDesc (s : State) (d : Dir) : State := setChan s d { chan s d with desc := .none }

/-- DmaUnwind's descriptors, from RX on (R103). -/
def unwindDescRx (s : State) : State :=
  if s.rx.desc = .submitted then moveTo (dmaAt (.unwindTerminate .rx)) s else unwindTables (dropDesc s .rx)

/-- DmaUnwind (R103), from its start. -/
def dmaUnwind (s : State) : State :=
  if s.tx.desc = .submitted then moveTo (dmaAt (.unwindTerminate .tx)) s else unwindDescRx (dropDesc s .tx)

/-- SGT[d].mapped <- b, the effect of Map and Unmap (R99). -/
def setMapped (s : State) (d : Dir) (b : Bool) : State := setChan s d { chan s d with mapped := b }

/-- DESC[d] <- x, the effect of Prep and Submit (R99). -/
def setDesc (s : State) (d : Dir) (x : Desc) : State := setChan s d { chan s d with desc := x }

/-- SGT[d] gets a table's segments; its reallocation count is given too. -/
def setTable (s : State) (d : Dir) (gs : List Seg) (reallocs : Nat) : State :=
  setChan s d { chan s d with segs := gs, reallocs := reallocs }

/-- What follows SlaveConfig (R101): the table is reused when the segment count is unchanged, else freed and asked for
again; contents are always refreshed. -/
def prepTable (d : Dir) (s : State) : State :=
  if segCount s.params s.leg = nents (chan s d) then
    moveTo (dmaAt (.map d)) (setTable s d (segmentsOf s.params s.leg d) (chan s d).reallocs)
  else moveTo (dmaAt (.allocTable d)) (setTable s d [] (chan s d).reallocs)

/-- What follows a direction's DmaPrep answering Ok (R102). -/
def prepOk (s : State) : Dir → State
  | .rx => moveTo (dmaAt (.slaveConfig .tx)) s
  | .tx => moveTo (dmaAt .setCallback) s

/-- What follows a Submit that succeeds (R102). -/
def submitOk (s : State) : Dir → State
  | .rx => moveTo (dmaAt (.submit .tx)) s
  | .tx => moveTo (dmaAt (.issue .rx)) s

/-- Issue(d) (R99, R124): the channel starts moving, MOVED[d] <- 0. -/
def issued (s : State) (d : Dir) : State := setChan s d { chan s d with desc := .issued, moved := 0 }

/-- What follows an Issue (R102): after TX the leg is armed and TRANSFER_ONE returns WAIT. -/
def issueDone (s : State) : Dir → State
  | .rx => moveTo (dmaAt (.issue .tx)) s
  | .tx => returned .wait { s with legMode := .dma, fsm := .transferActive }

/-- What follows an unwinding Terminate (R103). -/
def terminateDone (s : State) : Dir → State
  | .rx => unwindTables s
  | .tx => unwindDescRx s

/-- What follows an unwinding Unmap (R103). -/
def unmapDone (s : State) : Dir → State
  | .rx => unwindDone s
  | .tx => unwindUnmapRx s

/-- The steps of DmaPrep (R101), DmaStart (R102) and DmaUnwind (R103). -/
def dmaStep : DmaPos → State → State
  | .slaveConfig d, s =>
    prepTable d (setChan s d { chan s d with
      slave := some { addr := drPhys s.params, width := legUnit s.leg, direction := slaveDirection d } })
  | .allocTable d, s =>
    if s.answer then
      moveTo (dmaAt (.map d)) (setTable s d (segmentsOf s.params s.leg d) ((chan s d).reallocs + 1))
    else dmaUnwind s
  | .map d, s => if s.answer then moveTo (dmaAt (.prep d)) (setMapped s d true) else dmaUnwind s
  | .prep d, s => if s.answer then prepOk (setDesc s d .prepared) d else moveTo (dmaAt (.unmapFailed d)) s
  | .unmapFailed d, s => dmaUnwind (setMapped s d false)
  | .setCallback, s => moveTo (dmaAt (.submit .rx)) { s with cb := true }
  | .submit d, s => if s.answer then submitOk (setDesc s d .submitted) d else dmaUnwind s
  | .issue d, s => issueDone (issued s d) d
  | .unwindTerminate d, s => terminateDone (dropDesc s d) d
  | .unwindUnmap d, s => unmapDone (setMapped s d false) d

/-- DmaStart() (R102): its first request is RX's SlaveConfig. -/
def dmaStart (s : State) : State := moveTo (dmaAt (.slaveConfig .rx)) s

end Sys2Proof.Machine
end

