-- ==== Sys2Proof/Machine/Engine.lean ====
section
/-! DEFINITION. The FIFO transfer engine (42_fifo_engine.md): drain, fill, evaluate, one SSP access a step. It runs
inside TRANSFER_ONE's PIO arm (R95) and inside EVT_IRQ (R108), which say where PH stands and what follows. -/

namespace Sys2Proof.Machine

/-- A cursor moved by one unit (R92, R93, R94). -/
def advance (c : Word) (l : Leg) : Word := c + BitVec.ofNat 32 (legUnit l)

/-- Pop() (R92): the two checks, the DR read, the store, the cursor and the counter. -/
def pop (s : State) : Except Out State :=
  if s.fifoLvl = 0 then .error (raiseFault .shadowUnderflow s)
  else if s.leg.len.toNat < s.rxc.toNat + legUnit s.leg then .error (raiseFault .rxCursorOverflow s)
  else
    match ioRead32 (sspOffset .dr) s with
    | .error o => .error o
    | .ok (v, s1) =>
      match (if s1.leg.rxp then memWrite s1 (s1.leg.rx.toNat + s1.rxc.toNat) (legUnit s1.leg) (v.setWidth 16)
             else some s1) with
      | none => .error (.fault .bufferRefused)
      | some s2 => .ok { s2 with rxc := advance s2.rxc s2.leg, fifoLvl := s2.fifoLvl - 1 }

/-- Push() (R93): the unit of the transmit buffer or a zero unit, the DR write, the cursor and the counter. -/
def push (s : State) : Except Out State :=
  match (if s.leg.txp then memRead s (s.leg.tx.toNat + s.txc.toNat) (legUnit s.leg) else some (0, s)) with
  | none => .error (.fault .bufferRefused)
  | some (v, s1) =>
    match ioWrite32 (sspOffset .dr) (v.setWidth 32) s1 with
    | .error o => .error o
    | .ok s2 => .ok { s2 with txc := advance s2.txc s2.leg, fifoLvl := s2.fifoLvl + 1 }

/-- The guard of the fill loop (R90): headroom is the shadow counter's, never the hardware's (R134). -/
def fillMore (s : State) : Bool := decide (s.fifoLvl < fifoDepth) && decide (s.txc.toNat < s.leg.len.toNat)

/-- The fill loop's test and, when it ends, the evaluation (R90): `k` gets whether the engine answers Complete. -/
def engineFill (here : EnginePos → Phase) (k : Bool → State → Out) (s : State) : Out :=
  if fillMore s then goto (here .push) s else k (decide (s.rxc = s.leg.len)) s

/-- One step of Engine() (R90, R91): an SR read that tests RNE alone, a pop, or a push. -/
def engineStep (here : EnginePos → Phase) (k : Bool → State → Out) : EnginePos → State → Out
  | .sr, s =>
    bindOut (ioRead32 (sspOffset .sr) s) fun r =>
      if r.1.getLsbD 2 then goto (here .pop) r.2 else engineFill here k r.2
  | .pop, s => bindOut (pop s) (goto (here .sr))
  | .push, s => bindOut (push s) (engineFill here k)

end Sys2Proof.Machine
end

