-- ==== Sys2Proof/Machine/Events.lean ====
section
/-! DEFINITION. The two hardware events: EVT_IRQ (R108 to R110) and EVT_DMA_RX_DONE (R104). Taking an event saves no
state and returning restores none (R121, R122). -/

namespace Sys2Proof.Machine

/-- The end of a leg (R104, R110): Finalize, then Idle with no leg, then Ready. -/
def endLeg (s : State) : State :=
  { finalized s with fsm := .idle, legMode := .none, ph := .ready }

/-- Finish() from FSM = f (R110), up to its CR1 read. -/
def finish (f : Fsm) (s : State) : Out := goto (.evtIrq (.cr1 .read)) { s with fsm := f }

/-- What EVT_IRQ does with the engine's answer (R108). -/
def irqEngineDone (complete : Bool) (s : State) : Out := if complete then finish .done s else goto .ready s

/-- The start of EVT_IRQ (R108): the spurious-interrupt check precedes everything (R116). -/
def irqStart (s : State) : Out :=
  if s.fsm = .transferActive ∧ s.legMode = .pio then goto (.evtIrq .readIir) s
  else raiseFault .spuriousInterrupt { s with ph := .evtIrq .start }

/-- EVT_IRQ's steps (R108, R109, R110). -/
def irqStep : IrqPos → State → Out
  | .start, s => irqStart s
  | .readIir, s =>
    bindOut (ioRead32 (sspOffset .iir) s) fun r =>
      if r.1.getLsbD 2 then goto (.evtIrq .writeIcr) r.2 else goto (.evtIrq (.engine .sr)) r.2
  | .writeIcr, s => bindOut (ioWrite32 (sspOffset .iir) 0 s) fun s => finish .aborting { s with msgSt := .ioError }
  | .engine k, s => engineStep (fun k => .evtIrq (.engine k)) irqEngineDone k s
  | .cr1 k, s => cr1Rmw (fun k => .evtIrq (.cr1 k)) (· &&& ~~~irqEnMask) (fun s => .next (endLeg s)) k s

/-- EVT_IRQ (R108). -/
def execEvtIrq (s : State) : Out :=
  if stopped s then noStep s
  else
    match s.ph with
    | .ready => irqStart s
    | .evtIrq k => irqStep k s
    | _ => noStep s

/-- The start of EVT_DMA_RX_DONE (R104): the callback is consumed before the check of TXMOVED (log 18). -/
def dmaDoneStart (s : State) : Out :=
  if s.fsm = .transferActive ∧ s.legMode = .dma then
    if s.tx.moved < s.leg.len.toNat then
      raiseFault .txDmaStillActive { s with pendRx := false, ph := .evtDmaRxDone .start }
    else goto (.evtDmaRxDone .unmapRx) { s with pendRx := false }
  else raiseFault .spuriousDmaCallback { s with ph := .evtDmaRxDone .start }

/-- The tail of EVT_DMA_RX_DONE after both tables are unmapped (R104). -/
def dmaDoneTail (s : State) : Out :=
  .next (endLeg
    { dropDesc (dropDesc s .rx) .tx with cb := false, rxc := s.leg.len, txc := s.leg.len, fsm := .done })

/-- EVT_DMA_RX_DONE's steps (R104). -/
def dmaDoneStep : DmaDonePos → State → Out
  | .start, s => dmaDoneStart s
  | .unmapRx, s => goto (.evtDmaRxDone .unmapTx) (setMapped s .rx false)
  | .unmapTx, s => dmaDoneTail (setMapped s .tx false)

/-- EVT_DMA_RX_DONE (R104). -/
def execEvtDmaRxDone (s : State) : Out :=
  if stopped s then noStep s
  else
    match s.ph with
    | .ready => dmaDoneStart s
    | .evtDmaRxDone k => dmaDoneStep k s
    | _ => noStep s

end Sys2Proof.Machine
end

