-- ==== Sys2Proof/Machine/Divisor.lean ====
section
/-! DEFINITION. The clock divisor solver (R74, with the closed form of R75) and CALC_DIVISORS (R80). -/

namespace Sys2Proof.Machine

/-- The counter loop of R74 for one pre-scaler: the first s, from s on, of the next n that satisfies the inequality. -/
def searchCounter (base r p : Nat) : Nat → Nat → Option Nat
  | 0, _ => none
  | n + 1, s => if base / (p * (s + 1)) ≤ r then some s else searchCounter base r p n (s + 1)

/-- The pre-scaler loop of R74: the next n pre-scalers, in steps of 2 from p on. -/
def searchPrescaler (base r : Nat) : Nat → Nat → Option (Nat × Nat)
  | 0, _ => none
  | n + 1, p =>
    match searchCounter base r p 256 0 with
    | some s => some (p, s)
    | none => searchPrescaler base r n (p + 2)

/-- CalcDivisors(base, r) (R74): p from 2 to 254 in steps of 2, for each s from 0 to 255; none is Fail. -/
def calcDivisors (base r : Nat) : Option (Nat × Nat) := searchPrescaler base r 127 2

/-- ceil(a / b) (R12). -/
def ceilDiv (a b : Nat) : Nat := (a + b - 1) / b

/-- The closed form of R75. -/
def calcDivisorsClosed (base r : Nat) : Option (Nat × Nat) :=
  let n := base / (r + 1) + 1
  let q := ceilDiv n 256
  let p := max 2 (2 * ceilDiv q 2)
  if 254 < p then none else some (p, ceilDiv n p - 1)

/-- The body of CALC_DIVISORS (R80). It has no primitive, so it is one step; a fault in it leaves PH = Busy (log 11). -/
def calcBody (s : State) : Out :=
  match s.args.speed with
  | none => raiseFault .unwrittenArgument { s with ph := .calcDivisors }
  | some r =>
    match calcDivisors s.params.baseRate r.toNat with
    | some (p, c) => ret .ok { s with divRes := divResOk p c }
    | none => ret .unsupportedRate { s with divRes := divResFail }

/-- CALC_DIVISORS (R80). -/
def execCalcDivisors (s : State) : Out :=
  if stopped s then noStep s
  else
    match s.ph with
    | .ready => startCommand .calcDivisors s calcBody
    | .calcDivisors => calcBody s
    | _ => noStep s

end Sys2Proof.Machine
end

