-- ==== Sys2Proof/Machine/Session.lean ====
section
/-! DEFINITION. Lifecycle, hardware preparation and message preparation (41_session.md): ATTACH, DETACH, PREPARE_HW,
UNPREPARE_HW, PREPARE_MSG. Each meaning is one BLOCK step: at PH = Ready the start of the command, at a PH of its own the
primitive of that position and the computation up to the next one (R22, R120; log 1). -/

namespace Sys2Proof.Machine

/-- CHAN[d].held <- b, the effect of an Acquire that succeeds and of a Release (R99). -/
def setHeld (s : State) (d : Dir) (b : Bool) : State := setChan s d { chan s d with held := b }

/-- A table and descriptor as ATTACH leaves them: SGT[d] empty, DESC[d] None (R81). -/
def clearChan (c : Chan) : Chan := { c with segs := [], mapped := false, reallocs := 0, desc := .none }

/-- The tail of ATTACH after its last DMA-port request (R81). FIFOLVL is kept, as R26 ("Nothing else writes it") and R135
(reset to 0 "only at the end of a successful flush") say, against the "FIFOLVL <- 0" of R81's pseudocode, which no ruling
decides: DESIGN CHOICE (log 22). -/
def attachTail (s : State) : State :=
  returned .ok
    { s with
      rx := clearChan s.rx
      tx := clearChan s.tx
      cb := false
      fsm := .idle
      legMode := .none
      hwp := false
      clken := false
      rxc := 0
      txc := 0
      msgSt := .ok
      life := .attached }

/-- The end of ATTACH's else branch: no page, no DMA (R81). -/
def attachPio (s : State) : State := attachTail { s with scratchValid := false, dmaAv := false }

/-- ATTACH's else branch: "release whatever was obtained" (R81). -/
def attachRelease (s : State) : State := if s.rx.held then moveTo (.attach .releaseRx) s else attachPio s

/-- ATTACH's first step: CR1 <- 0, the advertised bounds, and the draw of the scratch page (R81). -/
def attachFirst (s : State) : State :=
  { s with
    minHz := BitVec.ofNat 32 (s.params.baseRate / 65024)
    maxHz := BitVec.ofNat 32 (s.params.baseRate / 2) }

/-- ATTACH's steps (R81). -/
def attachStep : AttachPos → State → Out
  | .writeCr1, s =>
    bindOut (ioWrite32 (sspOffset .cr1) 0 s) fun s =>
      .next (if s.answer then moveTo (.attach .acquireRx) { attachFirst s with scratchValid := true }
             else attachRelease (attachFirst s))
  | .acquireRx, s =>
    .next (if s.answer then moveTo (.attach .acquireTx) (setHeld s .rx true) else attachRelease s)
  | .acquireTx, s =>
    .next (if s.answer then attachTail { setHeld s .tx true with dmaAv := true } else attachRelease s)
  | .releaseRx, s => .next (attachPio (setHeld s .rx false))

/-- ATTACH (R81). -/
def execAttach (s : State) : Out :=
  if stopped s then noStep s
  else
    match s.ph with
    | .ready => startCommand .attach s (goto (.attach .writeCr1))
    | .attach k => attachStep k s
    | _ => noStep s

/-- The tail of DETACH after its last release (R82). -/
def detachTail (s : State) : State :=
  returned .ok
    { s with
      rx := { s.rx with segs := [] }
      tx := { s.tx with segs := [] }
      scratchValid := false
      dmaAv := false
      life := .detached }

/-- DETACH once the transmit channel is released or was not held (R82). -/
def detachRx (s : State) : State := if s.rx.held then moveTo (.detach .releaseRx) s else detachTail s

/-- The start of DETACH (R82): a no-op when detached. -/
def detachStart (s : State) : State :=
  if s.life = .detached then returned .ok s
  else if s.tx.held then moveTo (.detach .releaseTx) s
  else detachRx s

/-- DETACH's steps (R82). -/
def detachStep : DetachPos → State → State
  | .releaseTx, s => detachRx (setHeld s .tx false)
  | .releaseRx, s => detachTail (setHeld s .rx false)

/-- DETACH (R82). -/
def execDetach (s : State) : Out :=
  if stopped s then noStep s
  else
    match s.ph with
    | .ready => startCommand .detach s fun s => .next (detachStart s)
    | .detach k => .next (detachStep k s)
    | _ => noStep s

/-- PREPARE_HW's steps: CR1 with SSE set (R83). -/
def prepareHwStep : RmwPos → State → Out :=
  cr1Rmw .prepareHw (· ||| sseMask) fun s => ret .ok { s with hwp := true }

/-- PREPARE_HW (R83). -/
def execPrepareHw (s : State) : Out :=
  if stopped s then noStep s
  else
    match s.ph with
    | .ready => startCommand .prepareHw s fun s => goto (.prepareHw .read) { s with clken := true }
    | .prepareHw k => prepareHwStep k s
    | _ => noStep s

/-- UNPREPARE_HW's steps: CR1 with SSE clear, clock off (R84). -/
def unprepareHwStep : RmwPos → State → Out :=
  cr1Rmw .unprepareHw (· &&& ~~~sseMask) fun s => ret .ok { s with clken := false, hwp := false }

/-- UNPREPARE_HW (R84). -/
def execUnprepareHw (s : State) : Out :=
  if stopped s then noStep s
  else
    match s.ph with
    | .ready => startCommand .unprepareHw s (goto (.unprepareHw .read))
    | .unprepareHw k => unprepareHwStep k s
    | _ => noStep s

/-- The steps of Flush() (R86): SR is tested first, then expiry, then one unit is read and discarded. -/
def flushStep : FlushPos → State → Out
  | .readSr, s =>
    bindOut (ioRead32 (sspOffset .sr) s) fun r =>
      if r.1.getLsbD 2 then
        if r.2.expired then ret .flushTimeout r.2 else goto (.prepareMsg .readDr) r.2
      else ret .ok { r.2 with fifoLvl := 0 }
  | .readDr, s => bindOut (ioRead32 (sspOffset .dr) s) fun r => goto (.prepareMsg .readSr) r.2

/-- PREPARE_MSG (R85): MSGST and the 5 ms window are set at the start, so that CLOCK may expire before the first SR
read (V-SES-8). -/
def execPrepareMsg (s : State) : Out :=
  if stopped s then noStep s
  else
    match s.ph with
    | .ready =>
      startCommand .prepareMsg s fun s => goto (.prepareMsg .readSr) { s with msgSt := .ok, expired := false }
    | .prepareMsg k => flushStep k s
    | _ => noStep s

end Sys2Proof.Machine
end

