-- ==== Sys2Proof/Machine/Transfer.lean ====
section
/-! DEFINITION. TRANSFER_ONE (R87): the request, its validation, the configuration writes (R89), then the DMA start
(R102) or the PIO arm (R95). -/

namespace Sys2Proof.Machine

/-- Latch LEG and choose the divisors (R87): "leg setup aborts before any register write" when there are none. -/
def transferLatch (l : Leg) (s : State) : Out :=
  match calcDivisors s.params.baseRate l.speed.toNat with
  | none => ret .unsupportedRate { s with leg := l }
  | some (p, c) => goto (.transferOne (.writeCpsr p c)) { s with leg := l }

/-- The computation of TRANSFER_ONE before its first register write (R87); a fault in it leaves PH = Busy (log 11). -/
def transferStart (s : State) : Out :=
  match readRequest s.args with
  | none => raiseFault .unwrittenArgument { s with ph := .transferOne .start }
  | some (c, l) =>
    if requestValid s.params c l then transferLatch l s
    else raiseFault .malformedRequest { s with ph := .transferOne .start }

/-- PioArm() up to its engine's first SR read (R95). -/
def pioArm (s : State) : Out :=
  goto (.transferOne (.engine .sr)) { s with legMode := .pio, fsm := .transferActive }

/-- The choice of path, after the cursors are reset (R87): DMA when available and the byte count exceeds FIFO_DEPTH. -/
def transferPath (s : State) : Out :=
  if s.dmaAv && decide (fifoDepth < s.leg.len.toNat) then .next (dmaStart s) else pioArm s

/-- The prime's answer is ignored (R95); the interrupt enables come next. -/
def primeDone (_complete : Bool) (s : State) : Out := goto (.transferOne (.cr1 .read)) s

/-- TRANSFER_ONE's steps (R87, R89, R95, R101 to R103). -/
def transferStep : TransferPos → State → Out
  | .start, s => transferStart s
  | .writeCpsr p c, s => bindOut (ioWrite32 (sspOffset .cpsr) (cpsrWord p) s) (goto (.transferOne (.writeCr0 c)))
  | .writeCr0 c, s =>
    bindOut (ioWrite32 (sspOffset .cr0) (cr0Word s.leg c) s) fun s => transferPath { s with rxc := 0, txc := 0 }
  | .engine k, s => engineStep (fun k => .transferOne (.engine k)) primeDone k s
  | .cr1 k, s => cr1Rmw (fun k => .transferOne (.cr1 k)) (· ||| irqEnMask) (ret .wait) k s
  | .dma k, s => .next (dmaStep k s)

/-- TRANSFER_ONE (R87). -/
def execTransferOne (s : State) : Out :=
  if stopped s then noStep s
  else
    match s.ph with
    | .ready => startCommand .transferOne s transferStart
    | .transferOne k => transferStep k s
    | _ => noStep s

end Sys2Proof.Machine
end

