-- ==== Sys2Proof/Machine/Dispatch.lean ====
section
/-! DEFINITION. One arm per instruction: each is one direct call of its meaning. -/

namespace Sys2Proof.Machine

def exec (i : Instr) (s : State) : Host.Outcome State Fault Refusal :=
  match i with
  | .attach => Sys2Proof.Machine.execAttach s
  | .detach => Sys2Proof.Machine.execDetach s
  | .prepareHw => Sys2Proof.Machine.execPrepareHw s
  | .unprepareHw => Sys2Proof.Machine.execUnprepareHw s
  | .prepareMsg => Sys2Proof.Machine.execPrepareMsg s
  | .transferOne => Sys2Proof.Machine.execTransferOne s
  | .calcDivisors => Sys2Proof.Machine.execCalcDivisors s
  | .evtIrq => Sys2Proof.Machine.execEvtIrq s
  | .evtDmaRxDone => Sys2Proof.Machine.execEvtDmaRxDone s

end Sys2Proof.Machine
end

