-- ==== Sys2Proof/Machine/Agents.lean ====
section
/-! DEFINITION. The agents' steps (R9, R119, R120): BLOCK going on with its instruction, an event being taken, HOST's
accesses (R43, R56, R71), the SSP shifter (R123), the DMA channels (R124) and the flush-timeout clock (R125). An action
that is not enabled is no step: the state stays as it is (log 12). -/

namespace Sys2Proof.Machine

/-- A meaning's outcome as a step of the whole machine: where BLOCK has no step, nothing changes and the other agents go
on (R47, R115, R120; log 12). -/
def settle (s : State) (o : Out) : Out :=
  match o with
  | .fault _ => .next s
  | .next t => .next t
  | .refused r => .refused r

/-- BLOCK takes the next step of the instruction in execution; at PH = Ready it has none (R119, R120). -/
def blockStep (s : State) : Out :=
  match phaseOp s.ph with
  | none => .next s
  | some i => settle s (exec i s)

/-- May BLOCK take this event (R119)? EVT_IRQ needs an attached instance and the line asserted, EVT_DMA_RX_DONE a
pending callback. -/
def eventEnabled (s : State) : Instr → Bool
  | .evtIrq => s.life == .attached && irqLine s.params s.ssp
  | .evtDmaRxDone => s.pendRx
  | .attach | .detach | .prepareHw | .unprepareHw | .prepareMsg | .transferOne | .calcDivisors => false

/-- The event selector hands a code to BLOCK (R62, R119): it is taken at PH = Ready when enabled; a reserved code is
refused (R66). -/
def eventStep (e : Byte) (s : State) : Out :=
  match decodeEvt e with
  | .error _ => .refused .reservedEvent
  | .ok i => if s.ph == .ready && !stopped s && eventEnabled s i then exec i s else .next s

/-- A HOST write of CMD at PH = Ready (R65, R66): an undecodable word faults and changes nothing else. -/
def command (w : Word) (s : State) : Out :=
  match decodeCmd w with
  | .error _ => raiseFault .illegalCommand s
  | .ok i => exec i s

/-- What a HOST read of a host-port register returns (R43); none where it is not readable. An Unwritten argument reads
0. -/
def portRead (s : State) : Nat → Option Word
  | 0x04 => some (statusValue s)
  | 0x08 => some s.rxc
  | 0x0C => some s.txc
  | 0x10 => some (s.args.txAddr.getD 0)
  | 0x14 => some (s.args.rxAddr.getD 0)
  | 0x18 => some (s.args.len.getD 0)
  | 0x1C => some (s.args.cfg.getD 0)
  | 0x20 => some (s.args.speed.getD 0)
  | 0x24 => some s.divRes
  | 0x28 => some s.minHz
  | 0x2C => some s.maxHz
  | 0x30 => some (s.faultCode.setWidth 32)
  | 0x34 => some s.finCnt
  | 0x38 => some (sgValue s.rx)
  | 0x3C => some (sgValue s.tx)
  | _ => none

/-- What a HOST write of an argument register leaves in the argument registers (R43, R71); none at any other offset. -/
def argWrite (a : Args) (off : Nat) (v : Word) : Option Args :=
  match off with
  | 0x10 => some { a with txAddr := some v }
  | 0x14 => some { a with rxAddr := some v }
  | 0x18 => some { a with len := some v }
  | 0x1C => some { a with cfg := some v }
  | 0x20 => some { a with speed := some v }
  | _ => none

/-- A HOST read of the host port, at any time (R71, R115). -/
def hostRead (off : Nat) (s : State) : Out :=
  match portRead s off with
  | some v => .next { s with hostData := v }
  | none => raiseFault .illegalAccess s

/-- A HOST write of the host port (R71): it has no step at PH = Busy or after a fault (R115; log 13). -/
def hostWrite (off : Nat) (v : Word) (s : State) : Out :=
  if s.ph == .ready && !stopped s then
    match off with
    | 0x00 => command v s
    | n =>
      match argWrite s.args n v with
      | some a => .next { s with args := a }
      | none => raiseFault .illegalAccess s
  else .next s

/-- Is a leg's buffer interval running (R56): from TRANSFER_ONE's latch until the Finalize or an error result? -/
def legOwned (s : State) : Bool :=
  s.fsm != .idle
    || match s.ph with
       | .transferOne .start => false
       | .transferOne _ => true
       | _ => false

/-- Does the byte lie in one of the leg's present buffers? -/
def inLegBuffer (l : Leg) (a : Nat) : Bool :=
  (l.txp && decide (l.tx.toNat ≤ a) && decide (a < l.tx.toNat + l.len.toNat))
    || (l.rxp && decide (l.rx.toNat ≤ a) && decide (a < l.rx.toNat + l.len.toNat))

/-- A HOST access to this byte is a race now (R56). -/
def racing (s : State) (a : Nat) : Bool := legOwned s && inLegBuffer s.leg a

/-- A HOST read of a byte of system memory (R56): any value in a race, and after one until a rule or HOST has written the
byte (log 15); a refused access is no step (R47). -/
def hostMemRead (a : Nat) (s : State) : Out :=
  if admitted s a then
    if racing s a || s.unsettled.contains a then
      .next { s with hostData := (Config.raceByte s.draws).setWidth 32, draws := s.draws + 1 }
    else .next { s with hostData := (Memory.read s.mem a).setWidth 32 }
  else .next s

/-- A HOST write of a byte of system memory (R56): in a race the byte becomes a draw, and out of one it is none any more
(log 15). -/
def hostMemWrite (a : Nat) (v : Byte) (s : State) : Out :=
  if admitted s a then
    let mark := if racing s a then addrInsert a else addrErase a
    .next { s with mem := Memory.write s.mem a v, raced := mark s.raced, unsettled := mark s.unsettled }
  else .next s

/-- One access of HOST. -/
def hostStep : HostOp → State → Out
  | .read off, s => hostRead off s
  | .write off v, s => hostWrite off v s
  | .memRead a, s => hostMemRead a s
  | .memWrite a v, s => hostMemWrite a v s

/-- The SSP shifter's step (R123): one unit out, one received unit in, or lost with RORIS_RAW set when RXQ is full. -/
def sspShift (v : FifoUnit) (p : Ssp) : Ssp :=
  match p.txq with
  | [] => p
  | _ :: q =>
    if p.cr1.getLsbD 4 then
      if p.rxq.length < fifoDepth then { p with txq := q, rxq := p.rxq ++ [cutReceived p v] }
      else { p with txq := q, roris := true }
    else p

/-- The DMA_TX step (R124): the unit of the table's next bytes goes into TXQ; scratch reads zero (R33). -/
def dmaTxStep (s : State) : State :=
  if s.tx.desc = .issued ∧ s.tx.moved < segTotal s.tx.segs ∧ s.ssp.txq.length < fifoDepth then
    match segAt s.tx.segs s.tx.moved with
    | none => s
    | some (g, off) =>
      match (if g.kind = .buf then memRead s (g.addr + off) (legUnit s.leg) else some (0, s)) with
      | none => s
      | some (v, t) =>
        { t with
          ssp := { t.ssp with txq := t.ssp.txq ++ [v] }
          tx := { t.tx with moved := t.tx.moved + legUnit t.leg } }
  else s

/-- The DMA_RX step (R124): the head of RXQ goes to the table's next bytes, a scratch write is discarded (R33); the
callback becomes pending when the last byte has moved. -/
def dmaRxStep (s : State) : State :=
  if s.rx.desc = .issued ∧ s.rx.moved < segTotal s.rx.segs then
    match s.ssp.rxq, segAt s.rx.segs s.rx.moved with
    | v :: q, some (g, off) =>
      match (if g.kind = .buf then memWrite s (g.addr + off) (legUnit s.leg) v else some s) with
      | none => s
      | some t =>
        { t with
          ssp := { t.ssp with rxq := q }
          rx := { t.rx with moved := t.rx.moved + legUnit t.leg }
          pendRx := t.pendRx || (decide (t.rx.moved + legUnit t.leg = segTotal t.rx.segs) && t.cb) }
    | _, _ => s
  else s

/-- The CLOCK step (R125): enabled in PREPARE_MSG alone. -/
def clockStep (s : State) : State :=
  match s.ph with
  | .prepareMsg _ => { s with expired := true }
  | _ => s

/-- One action of one agent. -/
def perform (a : Action) (s : State) : Out :=
  match a with
  | .block b => blockStep { s with answer := b }
  | .event e => eventStep e s
  | .host op => hostStep op s
  | .shift v => .next (setSsp s (sspShift v s.ssp))
  | .dmaTx => .next (dmaTxStep s)
  | .dmaRx => .next (dmaRxStep s)
  | .clock => .next (clockStep s)

/-- The next action: the agenda's first, else the free schedule's choice (R119, R120; log 2). -/
def nextAction (s : State) : Action :=
  match s.agenda with
  | [] => Config.schedule s.tick
  | a :: _ => a

/-- The state once the next action has been taken from the agenda or from the free schedule. -/
def consumed (s : State) : State :=
  match s.agenda with
  | [] => { s with tick := s.tick + 1 }
  | _ :: l => { s with agenda := l }

/-- The action that hands a table word to BLOCK: an event code to the selector, or a word HOST writes to CMD. -/
def wordAction (nbits w : Nat) : Action :=
  if nbits = 8 then .event (BitVec.ofNat 8 w) else .host (.write 0x00 (BitVec.ofNat 32 w))

/-- What an event needs to be selectable (R119): for EVT_IRQ an attached instance with its line asserted, for
EVT_DMA_RX_DONE a pending callback; a command needs nothing. Nothing changes where it is enabled already. -/
def armed (s : State) (nbits w : Nat) : State :=
  if nbits = 8 then
    match decodeEvt (BitVec.ofNat 8 w) with
    | .ok .evtIrq =>
      if eventEnabled s .evtIrq then s
      else { s with life := .attached, ssp := { s.ssp with cr1 := s.ssp.cr1 ||| 0x4, roris := true } }
    | .ok .evtDmaRxDone => { s with pendRx := true }
    | _ => s
  else s

end Sys2Proof.Machine
end

