-- ==== Sys2Proof/Machine/Step.lean ====
section
/-! DEFINITION. One step of the whole machine: the next action of the outside world, then that agent's step (R14, R119,
R120). -/

namespace Sys2Proof.Machine

/-- One step of one agent. -/
def step (s : State) : Host.Outcome State Fault Refusal := perform (nextAction s) (consumed s)

/-- s with a table word placed where step takes its next instruction: the agenda's first action is HOST writing it to CMD
or the event selector handing it over, and an event is enabled (log 2). -/
def State.withFetchWord (s : State) (nbits w : Nat) : State :=
  { armed s nbits w with agenda := wordAction nbits w :: s.agenda }

end Sys2Proof.Machine
end

