-- ==== Sys2Proof/Safety.lean ====
section
/-! DEFINITION. The terms in which claims are made: BLOCK running alone, the conditions of a start, and the invariants of
the spec (R29, R42, R45, R96, R106) in the inductive form in which every step keeps them. -/

namespace Sys2Proof.Machine

/-- BLOCK may start an event (R119): PH = Ready and no fault has been raised. -/
def Free (s : State) : Prop := s.faults = [] ∧ s.ph = .ready

/-- BLOCK is at a position of the instruction in execution, and no fault has been raised (R120). -/
def At (k : Phase) (s : State) : Prop := s.faults = [] ∧ s.ph = k

/-- Steps of an instruction with no other agent in between, one for each draw of the list, up to its end (PH = Ready) or
a fault. -/
def blockRun : List Bool → Instr → State → Out
  | [], _, s => .next s
  | b :: bs, i, s =>
    match exec i { s with answer := b } with
    | .next t => if t.ph = .ready ∨ t.faults ≠ [] then .next t else blockRun bs i t
    | .fault r => .fault r
    | .refused r => .refused r

/-- PH at a position of the engine in the instruction that runs it. -/
def engineAt (i : Instr) (k : EnginePos) : Phase :=
  match i with
  | .evtIrq => .evtIrq (.engine k)
  | _ => .transferOne (.engine k)

/-- What follows an engine invocation (R95: the prime's answer is ignored; R108: Complete finishes the leg). -/
def engineEnd (i : Instr) (s : State) : State :=
  match i with
  | .evtIrq => if s.rxc = s.leg.len then { s with fsm := .done, ph := .evtIrq (.cr1 .read) } else moveTo .ready s
  | _ => moveTo (.transferOne (.cr1 .read)) s

/-- The state the fill loop's test leads to (R90). -/
def engineFilled (i : Instr) (s : State) : State :=
  if fillMore s then moveTo (engineAt i .push) s else engineEnd i s

/-- The instructions that run the engine. -/
def runsEngine : Instr → Bool
  | .transferOne | .evtIrq => true
  | _ => false

/-- The addresses of a list rise strictly. -/
def risingAddrs (l : List Nat) : Prop := l.Pairwise (· < ·)

/-- Memory and both lists of raced addresses are in their canonical form, and an unsettled byte is a raced one. -/
def MemInv (s : State) : Prop :=
  Memory.wf s.mem = true ∧ risingAddrs s.raced ∧ risingAddrs s.unsettled ∧ ∀ a ∈ s.unsettled, a ∈ s.raced

/-- FAULTS and FAULTCODE agree (R29): the set is sorted by code, and FAULTCODE is 0 exactly when it is empty, else the
code of a reason in it. -/
def FaultInv (s : State) : Prop :=
  s.faults.Pairwise (fun a b => (reasonCode a).toNat < (reasonCode b).toNat)
    ∧ (s.faults = [] → s.faultCode = 0)
    ∧ (s.faults ≠ [] → ∃ r ∈ s.faults, s.faultCode = reasonCode r)

/-- No leg: FSM = Idle and LEGMODE = None. -/
def NoLeg (s : State) : Prop := s.fsm = .idle ∧ s.legMode = .none

/-- A leg of this mode is active. -/
def LegOn (m : LegMode) (s : State) : Prop := s.fsm = .transferActive ∧ s.legMode = m

/-- What holds of FSM and LEGMODE at PH = Ready: FSM = Idle if and only if LEGMODE = None, and Aborting and Done are not
seen (R20, R45(e)). -/
def ReadyModes (s : State) : Prop := NoLeg s ∨ LegOn .pio s ∨ LegOn .dma s

/-- FSM and LEGMODE at each PH (R20, R21, R45(e), R107): the inductive form of R45(e). -/
def ModeInv (s : State) : Prop :=
  (s.life = .detached → NoLeg s) ∧
  match s.ph with
  | .ready | .calcDivisors | .evtIrq .start | .evtDmaRxDone .start => ReadyModes s
  | .attach _ => NoLeg s ∧ s.life = .detached
  | .detach _ | .prepareHw _ | .unprepareHw _ | .prepareMsg _ => NoLeg s ∧ s.life = .attached
  | .transferOne (.engine _) | .transferOne (.cr1 _) => LegOn .pio s
  | .transferOne _ => NoLeg s ∧ s.life = .attached
  | .evtIrq (.cr1 _) => (s.fsm = .aborting ∨ s.fsm = .done) ∧ s.legMode = .pio
  | .evtIrq _ => LegOn .pio s
  | .evtDmaRxDone _ => LegOn .dma s

/-- Is PH at a push position, whose guard the fill loop has just tested (R90)? -/
def atPush : Phase → Bool
  | .transferOne (.engine .push) | .evtIrq (.engine .push) => true
  | _ => false

/-- Is PH at a pop position, which an SR read with RNE = 1 led to (R91)? -/
def atPop : Phase → Bool
  | .transferOne (.engine .pop) | .evtIrq (.engine .pop) => true
  | _ => false

/-- The counter and the queues stay within FIFO_DEPTH (R26, R42, R45(a)). -/
def FifoInv (s : State) : Prop :=
  s.fifoLvl ≤ fifoDepth ∧ s.ssp.txq.length ≤ fifoDepth ∧ s.ssp.rxq.length ≤ fifoDepth
    ∧ (atPush s.ph = true → fillMore s = true)

/-- A latched leg's geometry is whole units (R50, R88, R94). -/
def LegGeometry (l : Leg) : Prop := 4 ≤ l.bpw.toNat ∧ l.bpw.toNat ≤ 16 ∧ legUnit l ∣ l.len.toNat

/-- PH is in TRANSFER_ONE after LEG is latched (R87). -/
def latched : Phase → Bool
  | .transferOne .start => false
  | .transferOne _ => true
  | _ => false

/-- PH is in the DMA start of TRANSFER_ONE (R102). -/
def inDmaStart : Phase → Bool
  | .transferOne (.dma _) => true
  | _ => false

/-- The cursors stay within the leg and, on a PIO leg, on its unit (R25, R45(b), R45(c)). -/
def CursorInv (s : State) : Prop :=
  (s.fsm ≠ .idle ∨ latched s.ph = true → LegGeometry s.leg)
    ∧ (s.fsm ≠ .idle → s.rxc.toNat ≤ s.leg.len.toNat ∧ s.txc.toNat ≤ s.leg.len.toNat)
    ∧ (s.legMode = .pio → legUnit s.leg ∣ s.rxc.toNat ∧ legUnit s.leg ∣ s.txc.toNat)
    ∧ (inDmaStart s.ph = true → s.rxc = 0 ∧ s.txc = 0)

/-- No table is mapped and no descriptor exists (R106). -/
def DmaQuiet (s : State) : Prop :=
  s.rx.mapped = false ∧ s.tx.mapped = false ∧ s.rx.desc = .none ∧ s.tx.desc = .none ∧ s.cb = false

/-- Tables, descriptors and the callback have these values. -/
def DmaIs (s : State) (rxMapped txMapped : Bool) (rxDesc txDesc : Desc) (cb : Bool) : Prop :=
  s.rx.mapped = rxMapped ∧ s.tx.mapped = txMapped ∧ s.rx.desc = rxDesc ∧ s.tx.desc = txDesc ∧ s.cb = cb

/-- What is mapped, prepared, submitted and issued at each position of the DMA start (R101, R102, R103). -/
def DmaStartInv (k : DmaPos) (s : State) : Prop :=
  match k with
  | .slaveConfig .rx | .allocTable .rx | .map .rx => DmaQuiet s
  | .prep .rx | .unmapFailed .rx => DmaIs s true false .none .none false
  | .slaveConfig .tx | .allocTable .tx | .map .tx => DmaIs s true false .prepared .none false
  | .prep .tx | .unmapFailed .tx => DmaIs s true true .prepared .none false
  | .setCallback => DmaIs s true true .prepared .prepared false
  | .submit .rx => DmaIs s true true .prepared .prepared true
  | .submit .tx => DmaIs s true true .submitted .prepared true
  | .issue .rx => DmaIs s true true .submitted .submitted true
  | .issue .tx => DmaIs s true true .issued .submitted true
  | .unwindTerminate .tx => s.tx.desc = .submitted ∧ s.rx.desc ≠ .issued
  | .unwindTerminate .rx => s.rx.desc = .submitted ∧ s.tx.desc = .none
  | .unwindUnmap .tx => s.tx.mapped = true ∧ s.rx.desc = .none ∧ s.tx.desc = .none ∧ s.cb = false
  | .unwindUnmap .rx => DmaIs s true false .none .none false

/-- The tables and descriptors at each PH: the inductive form of R106 and R45(d). -/
def DmaInv (s : State) : Prop :=
  match s.ph with
  | .transferOne (.dma k) => DmaStartInv k s
  | .evtDmaRxDone .unmapTx => DmaIs s false true .issued .issued true
  | _ => (s.legMode = .dma → DmaIs s true true .issued .issued true) ∧ (s.legMode ≠ .dma → DmaQuiet s)

/-- SCRATCH.valid, the two channels held and DMAAV have these values. -/
def Holds (s : State) (scratch rx tx dmaAv : Bool) : Prop :=
  s.scratchValid = scratch ∧ s.rx.held = rx ∧ s.tx.held = tx ∧ s.dmaAv = dmaAv

/-- The resources at each PH: outside ATTACH and DETACH all three are held, with DMAAV = 1, or none is, and none is held
while detached (R32, R81, R82). -/
def ResourceInv (s : State) : Prop :=
  match s.ph with
  | .attach .writeCr1 => Holds s false false false false
  | .attach .acquireRx => Holds s true false false false
  | .attach .acquireTx => Holds s true true false false
  | .attach .releaseRx => s.rx.held = true ∧ s.tx.held = false ∧ s.dmaAv = false
  | .detach .releaseTx => Holds s true true true true
  | .detach .releaseRx => Holds s true true false true
  | _ => (s.life = .detached → s.dmaAv = false) ∧ Holds s s.dmaAv s.dmaAv s.dmaAv s.dmaAv

/-- PEND_RX is set only by a receive channel that has moved its whole table, once per leg (R124). -/
def PendInv (s : State) : Prop :=
  (s.pendRx = true → s.rx.desc = .issued ∧ segTotal s.rx.segs ≤ s.rx.moved)
    ∧ (s.ph = .evtDmaRxDone .unmapRx ∨ s.ph = .evtDmaRxDone .unmapTx →
        s.pendRx = false ∧ segTotal s.rx.segs ≤ s.rx.moved)
    ∧ (s.ph = .evtDmaRxDone .start → s.faults ≠ [])

/-- The value a CR1 read-modify-write holds between its two steps (R58). -/
def heldCr1 : Phase → Option Word
  | .prepareHw (.write v) | .unprepareHw (.write v) | .transferOne (.cr1 (.write v)) | .evtIrq (.cr1 (.write v)) => some v
  | _ => none

/-- ATTACH after its first step (R81). -/
def attachCleared : Phase → Bool
  | .attach .writeCr1 => false
  | .attach _ => true
  | _ => false

/-- PH is in DETACH, which needs HWP = 0 (R70, R82). -/
def inDetach : Phase → Bool
  | .detach _ => true
  | _ => false

/-- PH is in TRANSFER_ONE, which needs HWP = 1 (R70, R87). -/
def inTransfer : Phase → Bool
  | .transferOne _ => true
  | _ => false

/-- PH where an armed PIO leg has its interrupt enables set: from TRANSFER_ONE's return (R95) to the CR1 write of Finish
(R110). -/
def irqArmed : Phase → Bool
  | .transferOne _ => false
  | _ => true

/-- CR1 follows the block: the interrupt enables are clear but for a PIO leg (R102, R110) and set once it is armed (R95),
SSE is set while prepared (R83), a leg runs only while prepared (R70), and no other agent writes CR1 between the steps of a
read-modify-write (R58). -/
def Cr1Inv (s : State) : Prop :=
  (s.life = .attached → s.legMode ≠ .pio → s.ssp.cr1 &&& irqEnMask = 0)
    ∧ (irqArmed s.ph = true → s.legMode = .pio → s.ssp.cr1 &&& irqEnMask = irqEnMask)
    ∧ (s.hwp = true → s.life = .attached ∧ inDetach s.ph = false ∧ s.ssp.cr1.getLsbD 4 = true)
    ∧ (s.fsm ≠ .idle ∨ inTransfer s.ph = true → s.hwp = true)
    ∧ (∀ v, heldCr1 s.ph = some v → v = s.ssp.cr1)
    ∧ (attachCleared s.ph = true → s.ssp.cr1 = 0)

/-- A PIO leg under the start condition of R96: the counter is truthful and nothing has been lost. -/
def CleanLeg (s : State) : Prop :=
  LegOn .pio s ∧ s.ssp.roris = false ∧ s.rx.desc ≠ .issued ∧ s.tx.desc ≠ .issued
    ∧ s.fifoLvl ≤ fifoDepth
    ∧ s.fifoLvl = s.ssp.txq.length + s.ssp.rxq.length
    ∧ s.txc.toNat = s.rxc.toNat + s.fifoLvl * legUnit s.leg
    ∧ s.txc.toNat ≤ s.leg.len.toNat
    ∧ legUnit s.leg ∣ s.leg.len.toNat ∧ legUnit s.leg ∣ s.rxc.toNat
    ∧ (atPop s.ph = true → s.ssp.rxq ≠ [])
    ∧ (atPush s.ph = true → fillMore s = true)
    ∧ match s.ph with
      | .ready | .calcDivisors | .evtIrq .start | .evtDmaRxDone .start
      | .transferOne (.engine _) | .transferOne (.cr1 _) | .evtIrq .readIir | .evtIrq (.engine _) => True
      | _ => False

/-- A PIO leg that has moved all its bytes and left nothing behind (R96(d)). -/
def LegComplete (s : State) : Prop :=
  s.fsm = .done ∧ s.rxc = s.leg.len ∧ s.txc = s.leg.len ∧ s.fifoLvl = 0 ∧ s.ssp.txq = [] ∧ s.ssp.rxq = []

/-- The faults R96(c) excludes on a clean leg. -/
def fifoFault : Reason → Bool
  | .shadowUnderflow | .rxCursorOverflow | .txFifoOverflow | .rxFifoUnderflow => true
  | _ => false

end Sys2Proof.Machine
end

