-- ==== Sys2Proof/Certificates/Slice0/Obligations.lean ====
section
/-! DEFINITION. The statements for the provers, each from the numbered rules of spec/ that its docstring names. An equation
`exec i s = .next t` names every field that changes, so it is the instruction's frame too: what it does not name is
unchanged. Runs of one instruction with no other agent in between are blockRun's; every interleaving is covered by the
statements about single steps and by the invariants of step. Where the spec gives an instruction several steps, which
computation belongs to which step is the model's choice (log 1), as are the positions of Phase that name them: every clause
about one step rests on it. -/

open Sys2Proof Sys2Proof.Machine

/-! ### Encoding, decoding and the step -/

/-- R65, R61, R62: a command word decodes exactly when it is a row's code, zero-extended, and an event code exactly when
it is a row's; and the table word of every instruction, at its width, is the one word that decodes to it. -/
def Obligations.DecoderIsExactlyTheOpcodeMap : Prop :=
  (∀ (w : Word) (i : Instr), decodeCmd w = .ok i ↔
    (w, i) ∈ [((0x00000001 : Word), Instr.attach), (0x00000002, .detach), (0x00000003, .prepareHw),
      (0x00000004, .unprepareHw), (0x00000005, .prepareMsg), (0x00000006, .transferOne), (0x00000007, .calcDivisors)]) ∧
  (∀ (e : Byte) (i : Instr), decodeEvt e = .ok i ↔
    (e, i) ∈ [((0x80 : Byte), Instr.evtIrq), (0x81, .evtDmaRxDone)]) ∧
  (∀ (nbits w : Nat) (i : Instr), decodeTableWord nbits w = some i ↔
    nbits = (encode i).1 ∧ w % 2 ^ nbits = (encode i).2)

/-- R66: the words reserved by name are exactly those that decode to nothing; written to CMD each raises IllegalCommand and
changes nothing else. R66 says too that a model must refuse event codes 0x82 to 0xFF; that step refuses those with bit 7
clear, which R62 says do not exist, is the model's choice (log 19). -/
def Obligations.ReservedWordsAreIllegal : Prop :=
  (∀ w : Word,
    (∃ r, decodeCmd w = .error r) ↔
      w >>> 8 ≠ 0 ∨ w.toNat % 256 = 0 ∨ (0x08 ≤ w.toNat % 256 ∧ w.toNat % 256 ≤ 0x7F) ∨ 0x80 ≤ w.toNat % 256) ∧
  (∀ (s : State) (w : Word), Free s →
    (w >>> 8 ≠ 0 ∨ w.toNat % 256 = 0 ∨ (0x08 ≤ w.toNat % 256 ∧ w.toNat % 256 ≤ 0x7F) ∨ 0x80 ≤ w.toNat % 256) →
    perform (.host (.write 0x00 w)) s =
      .next { s with
        faults := [.illegalCommand]
        faultCode := if s.faultCode = 0 then 1 else s.faultCode }) ∧
  (∀ (s : State) (e : Byte), e.toNat < 0x80 ∨ 0x82 ≤ e.toNat → perform (.event e) s = .refused .reservedEvent)

/-- R61, R62, R65: words written out from the map, as the opcode table numbers them. A sanity statement. -/
def Obligations.SampleWordsDecode : Prop :=
  decodeTableWord 32 0b00000000000000000000000000000001 = some .attach ∧
  decodeTableWord 32 0b00000000000000000000000000000011 = some .prepareHw ∧
  decodeTableWord 32 0b00000000000000000000000000000110 = some .transferOne ∧
  decodeTableWord 32 0b00000000000000000000000000000111 = some .calcDivisors ∧
  decodeTableWord 8 0b10000000 = some .evtIrq ∧
  decodeTableWord 8 0b10000001 = some .evtDmaRxDone ∧
  decodeTableWord 32 0b00000000000000000000000100000110 = none ∧
  decodeTableWord 32 0b00000000000000000000000010000000 = none

/-- R119, R120, and the model's own agenda (log 2): step takes the agenda's first action. A CMD write of a word that decodes
runs that instruction, so does an event code that is enabled, and a BLOCK action goes on with the instruction in execution,
its draw given (log 3); where BLOCK has no step nothing else changes (log 12). With an empty agenda the free schedule
chooses. -/
def Obligations.StepRunsTheDecodedInstruction : Prop :=
  ∀ (s : State) (l : List Action),
    (∀ (w : Word) (i : Instr), s.agenda = .host (.write 0x00 w) :: l → Free s → decodeCmd w = .ok i →
      step s = exec i { s with agenda := l }) ∧
    (∀ (e : Byte) (i : Instr), s.agenda = .event e :: l → Free s → decodeEvt e = .ok i → eventEnabled s i = true →
      step s = exec i { s with agenda := l }) ∧
    (∀ (b : Bool) (i : Instr), s.agenda = .block b :: l → phaseOp s.ph = some i →
      step s =
        match exec i { s with agenda := l, answer := b } with
        | .next t => .next t
        | .fault _ => .next { s with agenda := l, answer := b }
        | .refused r => .refused r) ∧
    (∀ a : Action, s.agenda = a :: l → step s = perform a { s with agenda := l }) ∧
    (s.agenda = [] → step s = perform (Config.schedule s.tick) { s with tick := s.tick + 1 })

/-- R71, R119, R120: an event is enabled by an attached instance and the line, or by a pending callback; at PH = Busy or
after a fault no HOST write and no event has a step; an event that is not enabled is not taken; BLOCK has no step at Ready;
and no instruction starts while another is in execution. -/
def Obligations.InputsWaitForTheirCondition : Prop :=
  ∀ s : State,
    (eventEnabled s .evtIrq = true ↔ s.life = .attached ∧ irqLine s.params s.ssp = true) ∧
    (eventEnabled s .evtDmaRxDone = true ↔ s.pendRx = true) ∧
    (¬ Free s → ∀ (off : Nat) (v : Word), perform (.host (.write off v)) s = .next s) ∧
    (¬ Free s → ∀ (e : Byte) (i : Instr), decodeEvt e = .ok i → perform (.event e) s = .next s) ∧
    (∀ (e : Byte) (i : Instr), decodeEvt e = .ok i → eventEnabled s i = false → perform (.event e) s = .next s) ∧
    (s.ph = .ready → ∀ b : Bool, perform (.block b) s = .next { s with answer := b }) ∧
    (∀ i j : Instr, s.faults = [] → phaseOp s.ph = some j → i ≠ j → exec i s = .fault .blockBusy)

/-- The model's own (log 2): the word placed by withFetchWord is the instruction the very next step runs, in the state that
only arms an event which is not enabled. -/
def Obligations.FetchedWordRunsNext : Prop :=
  ∀ (s : State) (i : Instr), Free s →
    step (s.withFetchWord (encode i).1 (encode i).2) = exec i (armed s (encode i).1 (encode i).2) ∧
    (isEvent i = false → armed s (encode i).1 (encode i).2 = s) ∧
    (isEvent i = true → eventEnabled (armed s (encode i).1 (encode i).2) i = true)

/-! ### State checks and faults -/

/-- R70: a command raises BadState, from the state it is issued in and changing nothing else, exactly when its required
state does not hold. -/
def Obligations.RequiredStateOfEveryCommand : Prop :=
  ∀ s : State, Free s →
    (exec .attach s = .next (raised .badState s) ↔ ¬ s.life = .detached) ∧
    (exec .detach s = .next (raised .badState s) ↔
      ¬ (s.life = .detached ∨ (s.life = .attached ∧ s.fsm = .idle ∧ s.hwp = false))) ∧
    (exec .prepareHw s = .next (raised .badState s) ↔ ¬ (s.life = .attached ∧ s.fsm = .idle ∧ s.hwp = false)) ∧
    (exec .unprepareHw s = .next (raised .badState s) ↔ ¬ (s.life = .attached ∧ s.fsm = .idle ∧ s.hwp = true)) ∧
    (exec .prepareMsg s = .next (raised .badState s) ↔ ¬ (s.life = .attached ∧ s.fsm = .idle ∧ s.hwp = true)) ∧
    (exec .transferOne s = .next (raised .badState s) ↔ ¬ (s.life = .attached ∧ s.fsm = .idle ∧ s.hwp = true)) ∧
    (exec .calcDivisors s = .next (raised .badState s) ↔ ¬ s.life = .attached)

/-- R115: what raising a fault changes, and what still has a step after one: BLOCK and HOST's writes have none, HOST's
reads are answered with STATUS bit 31 set, and the other agents step as before. -/
def Obligations.FaultEntry : Prop :=
  (∀ (r : Reason) (s : State),
    raised r s =
      { s with
        faults := (raised r s).faults
        faultCode := if s.faultCode = 0 then reasonCode r else s.faultCode } ∧
    (∀ q : Reason, q ∈ (raised r s).faults ↔ q = r ∨ q ∈ s.faults)) ∧
  (∀ s : State, s.faults ≠ [] →
    (∀ i : Instr, exec i s = .fault .blockStopped) ∧
    (∀ b : Bool, perform (.block b) s = .next { s with answer := b }) ∧
    (∀ (e : Byte) (i : Instr), decodeEvt e = .ok i → perform (.event e) s = .next s) ∧
    (∀ (off : Nat) (v : Word), perform (.host (.write off v)) s = .next s) ∧
    (∀ (off : Nat) (v : Word), portRead s off = some v → perform (.host (.read off)) s = .next { s with hostData := v }) ∧
    (statusValue s).getLsbD 31 = true) ∧
  (∀ (s : State) (f : List Reason) (c : Byte) (v : FifoUnit),
    sspShift v { s with faults := f, faultCode := c }.ssp = sspShift v s.ssp ∧
    dmaTxStep { s with faults := f, faultCode := c } = { dmaTxStep s with faults := f, faultCode := c } ∧
    dmaRxStep { s with faults := f, faultCode := c } = { dmaRxStep s with faults := f, faultCode := c } ∧
    clockStep { s with faults := f, faultCode := c } = { clockStep s with faults := f, faultCode := c })

/-! ### The divisor solver -/

/-- R75: the loop of R74 and the closed form agree for all naturals. -/
def Obligations.DivisorClosedForm : Prop :=
  ∀ base r : Nat,
    calcDivisors base r =
      (let n := base / (r + 1) + 1
       let q := (n + 255) / 256
       let p := max 2 (2 * ((q + 1) / 2))
       if 254 < p then none else some (p, (n + p - 1) / p - 1))

/-- R76, R77: the solver fails exactly below MIN_HZ (so at r = 0 exactly when base ≥ 65024), at or above MAX_HZ it
answers (2, 0), and no answer's output rate exceeds MAX_HZ. -/
def Obligations.DivisorFloorAndCeiling : Prop :=
  ∀ base r : Nat,
    (calcDivisors base r = none ↔ r < base / 65024) ∧
    (calcDivisors base 0 = none ↔ 65024 ≤ base) ∧
    (base / 2 ≤ r → calcDivisors base r = some (2, 0)) ∧
    (∀ p s : Nat, calcDivisors base r = some (p, s) → base / (p * (s + 1)) ≤ base / 2)

/-- R74: the answer is the first legal pair, in the order pre-scaler then counter, whose floored rate is at most r; there is
none exactly when the solver fails. -/
def Obligations.DivisorIsFirstPair : Prop :=
  ∀ base r : Nat,
    (∀ p s : Nat, calcDivisors base r = some (p, s) ↔
      (2 ≤ p ∧ p ≤ 254 ∧ p % 2 = 0 ∧ s ≤ 255 ∧ base / (p * (s + 1)) ≤ r) ∧
      (∀ p' s' : Nat, 2 ≤ p' → p' ≤ 254 → p' % 2 = 0 → s' ≤ 255 → (p' < p ∨ (p' = p ∧ s' < s)) →
        r < base / (p' * (s' + 1)))) ∧
    (calcDivisors base r = none ↔
      ∀ p s : Nat, 2 ≤ p → p ≤ 254 → p % 2 = 0 → s ≤ 255 → r < base / (p * (s + 1)))

/-- R78: the answer meets the inequality; where a pair with pre-scaler 2 does, the answer has pre-scaler 2 and is the
closest achievable rate not above r; and it is not the closest in general. (R78's item b is DivisorIsFirstPair.) -/
def Obligations.DivisorGuarantees : Prop :=
  (∀ base r p s : Nat, calcDivisors base r = some (p, s) → base / (p * (s + 1)) ≤ r) ∧
  (∀ base r s₂ : Nat, s₂ ≤ 255 → base / (2 * (s₂ + 1)) ≤ r →
    ∃ s : Nat, calcDivisors base r = some (2, s) ∧
      ∀ p' s' : Nat, 2 ≤ p' → p' ≤ 254 → p' % 2 = 0 → s' ≤ 255 → base / (p' * (s' + 1)) ≤ r →
        base / (p' * (s' + 1)) ≤ base / (2 * (s + 1))) ∧
  (calcDivisors 1000000 266 = some (16, 234) ∧ 1000000 / (16 * (234 + 1)) = 265 ∧ 1000000 / (28 * (133 + 1)) = 266)

/-- R80: CALC_DIVISORS in its required state with its operand written: DIVRES and LASTRES, and nothing else; and the fault
when ARG_SPEED is Unwritten (that it leaves PH at the start position is the model's choice, log 11). -/
def Obligations.CalcDivisorsCompletes : Prop :=
  ∀ s : State, Free s → s.life = .attached →
    (∀ (r : Word) (p c : Nat), s.args.speed = some r → calcDivisors s.params.baseRate r.toNat = some (p, c) →
      exec .calcDivisors s =
        .next { s with divRes := BitVec.ofNat 32 (c % 256 * 256 + p % 256), lastRes := .ok, ph := .ready }) ∧
    (∀ r : Word, s.args.speed = some r → calcDivisors s.params.baseRate r.toNat = none →
      exec .calcDivisors s = .next { s with divRes := 0x80000000, lastRes := .unsupportedRate, ph := .ready }) ∧
    (s.args.speed = none →
      exec .calcDivisors s = .next (raised .unwrittenArgument { s with ph := .calcDivisors }))

/-! ### Lifecycle, hardware and message preparation -/

/-- R81: ATTACH for every answer of its three draws, from its start to its end; DMA is available exactly when all three
succeed, and otherwise every resource obtained is released. Then the step that starts it and the step that ends it when the
last draw succeeds. (Which step makes which draw is the model's choice: log 1, log 3. FIFOLVL is kept, as R26
and R135 say, and not cleared, as R81's pseudocode has it: the model's choice, log 22.) -/
def Obligations.AttachRuns : Prop :=
  (∀ (s : State) (b₀ okp okr okt b₁ : Bool), Free s → s.life = .detached → s.rx.held = false → s.tx.held = false →
    ∃ a : Bool, blockRun [b₀, okp, okr, okt, b₁] .attach s =
      .next { s with
        answer := a
        minHz := BitVec.ofNat 32 (s.params.baseRate / 65024)
        maxHz := BitVec.ofNat 32 (s.params.baseRate / 2)
        ssp := { s.ssp with cr1 := 0 }
        scratchValid := okp && okr && okt
        dmaAv := okp && okr && okt
        rx := { s.rx with held := okp && okr && okt, segs := [], mapped := false, reallocs := 0, desc := .none }
        tx := { s.tx with held := okp && okr && okt, segs := [], mapped := false, reallocs := 0, desc := .none }
        cb := false
        fsm := .idle
        legMode := .none
        hwp := false
        clken := false
        rxc := 0
        txc := 0
        msgSt := .ok
        life := .attached
        lastRes := .ok
        ph := .ready }) ∧
  (∀ s : State, Free s → s.life = .detached → exec .attach s = .next { s with ph := .attach .writeCr1 }) ∧
  (∀ s : State, At (.attach .acquireTx) s → s.answer = true →
    exec .attach s =
      .next { s with
        dmaAv := true
        rx := { s.rx with segs := [], mapped := false, reallocs := 0, desc := .none }
        tx := { s.tx with held := true, segs := [], mapped := false, reallocs := 0, desc := .none }
        cb := false
        fsm := .idle
        legMode := .none
        hwp := false
        clken := false
        rxc := 0
        txc := 0
        msgSt := .ok
        life := .attached
        lastRes := .ok
        ph := .ready })

/-- R82: DETACH when detached changes LASTRES alone; attached, idle and unprepared it releases both channels, the tables
and the page, and writes no SSP register. Then the step that ends it. -/
def Obligations.DetachRuns : Prop :=
  (∀ s : State, Free s → s.life = .detached → exec .detach s = .next { s with lastRes := .ok, ph := .ready }) ∧
  (∀ (s : State) (b₀ b₁ b₂ : Bool), Free s → s.life = .attached → s.fsm = .idle → s.hwp = false →
    ∃ a : Bool, blockRun [b₀, b₁, b₂] .detach s =
      .next { s with
        answer := a
        rx := { s.rx with held := false, segs := [] }
        tx := { s.tx with held := false, segs := [] }
        scratchValid := false
        dmaAv := false
        life := .detached
        lastRes := .ok
        ph := .ready }) ∧
  (∀ s : State, At (.detach .releaseRx) s →
    exec .detach s =
      .next { s with
        rx := { s.rx with held := false, segs := [] }
        tx := { s.tx with segs := [] }
        scratchValid := false
        dmaAv := false
        life := .detached
        lastRes := .ok
        ph := .ready })

/-- R83: PREPARE_HW enables the clock, then sets CR1 bit 4 by a read and a write, every other CR1 bit kept. -/
def Obligations.PrepareHwSetsSse : Prop :=
  ∀ s : State,
    (Free s → s.life = .attached → s.fsm = .idle → s.hwp = false →
      exec .prepareHw s = .next { s with clken := true, ph := .prepareHw .read }) ∧
    (Free s → ¬ (s.life = .attached ∧ s.fsm = .idle ∧ s.hwp = false) →
      exec .prepareHw s = .next (raised .badState s)) ∧
    (At (.prepareHw .read) s → exec .prepareHw s = .next { s with ph := .prepareHw (.write s.ssp.cr1) }) ∧
    (∀ v : Word, At (.prepareHw (.write v)) s →
      exec .prepareHw s =
        .next { s with ssp := { s.ssp with cr1 := v ||| 0x00000010 }, hwp := true, lastRes := .ok, ph := .ready })

/-- R84: UNPREPARE_HW clears CR1 bit 4 by a read and a write, every other CR1 bit kept, then disables the clock. -/
def Obligations.UnprepareHwClearsSse : Prop :=
  ∀ s : State,
    (Free s → s.life = .attached → s.fsm = .idle → s.hwp = true →
      exec .unprepareHw s = .next { s with ph := .unprepareHw .read }) ∧
    (Free s → ¬ (s.life = .attached ∧ s.fsm = .idle ∧ s.hwp = true) →
      exec .unprepareHw s = .next (raised .badState s)) ∧
    (At (.unprepareHw .read) s → exec .unprepareHw s = .next { s with ph := .unprepareHw (.write s.ssp.cr1) }) ∧
    (∀ v : Word, At (.unprepareHw (.write v)) s →
      exec .unprepareHw s =
        .next { s with
          ssp := { s.ssp with cr1 := v &&& 0xFFFFFFEF }, clken := false, hwp := false, lastRes := .ok, ph := .ready })

/-- R85, R86, R125: PREPARE_MSG opens the window, then an SR read that tests RNE first and expiry second, and a DR read that
discards one unit; FIFOLVL is reset on success alone. CLOCK sets the expired bit during PREPARE_MSG and changes nothing
elsewhere. -/
def Obligations.PrepareMsgFlushes : Prop :=
  ∀ s : State,
    (Free s → s.life = .attached → s.fsm = .idle → s.hwp = true →
      exec .prepareMsg s = .next { s with msgSt := .ok, expired := false, ph := .prepareMsg .readSr }) ∧
    (At (.prepareMsg .readSr) s → s.ssp.rxq = [] →
      exec .prepareMsg s = .next { s with fifoLvl := 0, lastRes := .ok, ph := .ready }) ∧
    (At (.prepareMsg .readSr) s → s.ssp.rxq ≠ [] → s.expired = true →
      exec .prepareMsg s = .next { s with lastRes := .flushTimeout, ph := .ready }) ∧
    (At (.prepareMsg .readSr) s → s.ssp.rxq ≠ [] → s.expired = false →
      exec .prepareMsg s = .next { s with ph := .prepareMsg .readDr }) ∧
    (∀ (u : FifoUnit) (q : List FifoUnit), At (.prepareMsg .readDr) s → s.ssp.rxq = u :: q →
      exec .prepareMsg s = .next { s with ssp := { s.ssp with rxq := q }, ph := .prepareMsg .readSr }) ∧
    (At (.prepareMsg .readDr) s → s.ssp.rxq = [] → exec .prepareMsg s = .next (raised .rxFifoUnderflow s)) ∧
    ((∃ k, s.ph = .prepareMsg k) → perform .clock s = .next { s with expired := true }) ∧
    ((∀ k, s.ph ≠ .prepareMsg k) → perform .clock s = .next s)

/-- R86's bound: with no DMA channel issued no step in PREPARE_MSG makes |RXQ| + |TXQ| grow, and each discarding read takes
one off it, so the flush makes at most that many; and a flush that runs alone and is not cut off ends with RXQ empty and
FIFOLVL = 0 after one discarding read for each unit. -/
def Obligations.FlushIsBounded : Prop :=
  (∀ (s t : State) (k : FlushPos), s.ph = .prepareMsg k → s.tx.desc ≠ .issued → step s = .next t →
    t.ssp.rxq.length + t.ssp.txq.length ≤ s.ssp.rxq.length + s.ssp.txq.length ∧
    (s.ph = .prepareMsg .readDr → t.ph = .prepareMsg .readSr →
      t.ssp.rxq.length + t.ssp.txq.length + 1 = s.ssp.rxq.length + s.ssp.txq.length)) ∧
  (∀ (s : State) (bs : List Bool), Free s → s.life = .attached → s.fsm = .idle → s.hwp = true →
    bs.length = 2 * s.ssp.rxq.length + 2 →
    ∃ a : Bool, blockRun bs .prepareMsg s =
      .next { s with
        answer := a
        msgSt := .ok
        expired := false
        ssp := { s.ssp with rxq := [] }
        fifoLvl := 0
        lastRes := .ok
        ph := .ready })

/-! ### TRANSFER_ONE -/

/-- R63, R23: which arguments TRANSFER_ONE reads, that one of them Unwritten raises UnwrittenArgument, and the fields it
takes from them. (That the fault leaves PH at the start position is the model's choice, log 11.) -/
def Obligations.RequestOperands : Prop :=
  ∀ s : State,
    (readRequest s.args = none ↔
      s.args.cfg = none ∨ s.args.len = none ∨ s.args.speed = none ∨
      (∃ c : Word, s.args.cfg = some c ∧ c.getLsbD 8 = true ∧ s.args.txAddr = none) ∨
      (∃ c : Word, s.args.cfg = some c ∧ c.getLsbD 9 = true ∧ s.args.rxAddr = none)) ∧
    (Free s → s.life = .attached → s.fsm = .idle → s.hwp = true → readRequest s.args = none →
      exec .transferOne s = .next (raised .unwrittenArgument { s with ph := .transferOne .start })) ∧
    (∀ (c : Word) (l : Leg), readRequest s.args = some (c, l) →
      s.args.cfg = some c ∧ s.args.len = some l.len ∧ s.args.speed = some l.speed ∧
      l.bpw.toNat = c.toNat % 32 ∧ l.txp = c.getLsbD 8 ∧ l.rxp = c.getLsbD 9 ∧ l.cpha = c.getLsbD 12 ∧
      l.cpol = c.getLsbD 13 ∧
      (l.txp = true → s.args.txAddr = some l.tx) ∧ (l.rxp = true → s.args.rxAddr = some l.rx))

/-- R88, R87: with its operands read, TRANSFER_ONE faults exactly on the six listed conditions; otherwise it latches LEG and
either returns UNSUPPORTED_RATE, no SSP register written and the cursors kept, or goes to its first register write. (That
the fault leaves PH at the start position is the model's choice, log 11.) -/
def Obligations.TransferOneValidates : Prop :=
  ∀ (s : State) (c : Word) (l : Leg), Free s → s.life = .attached → s.fsm = .idle → s.hwp = true →
    readRequest s.args = some (c, l) →
    (((l.bpw.toNat < 4 ∨ 16 < l.bpw.toNat) ∨
      c &&& 0xFFFFCCE0 ≠ 0 ∨
      (8 < l.bpw.toNat ∧ l.len.toNat % 2 = 1) ∨
      (8 < l.bpw.toNat ∧ ((l.txp = true ∧ l.tx.toNat % 2 = 1) ∨ (l.rxp = true ∧ l.rx.toNat % 2 = 1))) ∨
      ((l.txp = true ∧ 2 ^ s.params.addrW ≤ l.tx.toNat) ∨ (l.rxp = true ∧ 2 ^ s.params.addrW ≤ l.rx.toNat)) ∨
      ((l.txp = true ∧ 2 ^ s.params.addrW < l.tx.toNat + l.len.toNat) ∨
        (l.rxp = true ∧ 2 ^ s.params.addrW < l.rx.toNat + l.len.toNat))) ∧
      exec .transferOne s = .next (raised .malformedRequest { s with ph := .transferOne .start })) ∨
    (¬ ((l.bpw.toNat < 4 ∨ 16 < l.bpw.toNat) ∨
      c &&& 0xFFFFCCE0 ≠ 0 ∨
      (8 < l.bpw.toNat ∧ l.len.toNat % 2 = 1) ∨
      (8 < l.bpw.toNat ∧ ((l.txp = true ∧ l.tx.toNat % 2 = 1) ∨ (l.rxp = true ∧ l.rx.toNat % 2 = 1))) ∨
      ((l.txp = true ∧ 2 ^ s.params.addrW ≤ l.tx.toNat) ∨ (l.rxp = true ∧ 2 ^ s.params.addrW ≤ l.rx.toNat)) ∨
      ((l.txp = true ∧ 2 ^ s.params.addrW < l.tx.toNat + l.len.toNat) ∨
        (l.rxp = true ∧ 2 ^ s.params.addrW < l.rx.toNat + l.len.toNat))) ∧
      exec .transferOne s =
        match calcDivisors s.params.baseRate l.speed.toNat with
        | none => .next { s with leg := l, lastRes := .unsupportedRate, ph := .ready }
        | some (p, d) => .next { s with leg := l, ph := .transferOne (.writeCpsr p d) })

/-- R89, R87: CPSR gets p[7:0], then CR0 gets the counter, the two mode bits and DSS = bpw - 1, FRF and the reserved bits 0;
with the second write the cursors are reset and the path is chosen: DMA when available and the byte count exceeds 8, else
the PIO arm. -/
def Obligations.ConfigurationIsWritten : Prop :=
  ∀ s : State,
    (∀ p d : Nat, At (.transferOne (.writeCpsr p d)) s →
      exec .transferOne s =
        .next { s with ssp := { s.ssp with cpsr := BitVec.ofNat 32 (p % 256) }, ph := .transferOne (.writeCr0 d) }) ∧
    (∀ d : Nat, At (.transferOne (.writeCr0 d)) s → 4 ≤ s.leg.bpw.toNat → s.leg.bpw.toNat ≤ 16 →
      exec .transferOne s =
        .next (
          let t : State :=
            { s with
              ssp := { s.ssp with
                cr0 := BitVec.ofNat 32 (d % 256 * 256 + (if s.leg.cpol then 128 else 0) + (if s.leg.cpha then 64 else 0)
                  + (s.leg.bpw.toNat - 1)) }
              rxc := 0
              txc := 0 }
          if s.dmaAv = true ∧ 8 < s.leg.len.toNat then { t with ph := .transferOne (.dma (.slaveConfig .rx)) }
          else { t with legMode := .pio, fsm := .transferActive, ph := .transferOne (.engine .sr) }))

/-- R95: after the prime, whatever it answered, RIE, TIE and RORIE are set by a read and a write and the result is WAIT. -/
def Obligations.PioArmReturnsWait : Prop :=
  ∀ s : State,
    (At (.transferOne (.cr1 .read)) s →
      exec .transferOne s = .next { s with ph := .transferOne (.cr1 (.write s.ssp.cr1)) }) ∧
    (∀ v : Word, At (.transferOne (.cr1 (.write v))) s →
      exec .transferOne s =
        .next { s with ssp := { s.ssp with cr1 := v ||| 0x00000007 }, lastRes := .wait, ph := .ready })

/-! ### The FIFO engine -/

/-- R90, R91, R136, in both instructions that run the engine: an SR read with RNE = 1 leads to a pop and a pop leads back to
the SR read; an SR read with RNE = 0 leads to the fill; a push leads to the fill test again and never back to the drain; the
fill pushes while FIFOLVL < 8 and TXC < LEG.len; then TRANSFER_ONE goes on to its CR1 read, and EVT_IRQ finishes the leg when
RXC = LEG.len, else it ends. -/
def Obligations.EngineDrainsBeforeFilling : Prop :=
  ∀ (i : Instr) (s t : State), runsEngine i = true →
    (At (engineAt i .sr) s → s.ssp.rxq ≠ [] → exec i s = .next { s with ph := engineAt i .pop }) ∧
    (At (engineAt i .sr) s → s.ssp.rxq = [] → exec i s = .next (engineFilled i s)) ∧
    (At (engineAt i .pop) s → exec i s = .next t → t.faults = [] → t.ph = engineAt i .sr) ∧
    (At (engineAt i .push) s → exec i s = .next t → t.faults = [] →
      ∃ u : State, u.leg = s.leg ∧ u.rxc = s.rxc ∧ u.fifoLvl = s.fifoLvl + 1 ∧ t = engineFilled i u) ∧
    ((s.fifoLvl < 8 ∧ s.txc.toNat < s.leg.len.toNat) → engineFilled i s = { s with ph := engineAt i .push }) ∧
    (¬ (s.fifoLvl < 8 ∧ s.txc.toNat < s.leg.len.toNat) →
      engineFilled .transferOne s = { s with ph := .transferOne (.cr1 .read) } ∧
      (s.rxc = s.leg.len → engineFilled .evtIrq s = { s with fsm := .done, ph := .evtIrq (.cr1 .read) }) ∧
      (s.rxc ≠ s.leg.len → engineFilled .evtIrq s = { s with ph := .ready }))

/-- R92, R48, R47: a pop, in both instructions that run it: the two checks before the DR read, the DR read's own fault, the
unit stored little-endian at LEG.rx + RXC and nowhere else or discarded, and the cursor and the counter; a byte the memory
refuses leaves BLOCK without a step. -/
def Obligations.PopMovesOneUnit : Prop :=
  ∀ (i : Instr) (s : State), runsEngine i = true → At (engineAt i .pop) s →
    (s.fifoLvl = 0 → exec i s = .next (raised .shadowUnderflow s)) ∧
    (0 < s.fifoLvl → s.leg.len.toNat < s.rxc.toNat + legUnit s.leg →
      exec i s = .next (raised .rxCursorOverflow s)) ∧
    (0 < s.fifoLvl → s.rxc.toNat + legUnit s.leg ≤ s.leg.len.toNat → s.ssp.rxq = [] →
      exec i s = .next (raised .rxFifoUnderflow s)) ∧
    (∀ (u : FifoUnit) (q : List FifoUnit), 0 < s.fifoLvl → s.rxc.toNat + legUnit s.leg ≤ s.leg.len.toNat →
      s.ssp.rxq = u :: q → s.leg.rxp = false →
      exec i s =
        .next { s with
          ssp := { s.ssp with rxq := q }
          rxc := BitVec.ofNat 32 (s.rxc.toNat + legUnit s.leg)
          fifoLvl := s.fifoLvl - 1
          ph := engineAt i .sr }) ∧
    (∀ (u : FifoUnit) (q : List FifoUnit), 0 < s.fifoLvl → s.rxc.toNat + legUnit s.leg ≤ s.leg.len.toNat →
      s.ssp.rxq = u :: q → s.leg.rxp = true → MemInv s →
      (∀ k < legUnit s.leg, admitted s (s.leg.rx.toNat + s.rxc.toNat + k) = true) →
      ∃ (m : List Host.Cell) (r : List Nat),
        exec i s =
          .next { s with
            ssp := { s.ssp with rxq := q }
            rxc := BitVec.ofNat 32 (s.rxc.toNat + legUnit s.leg)
            fifoLvl := s.fifoLvl - 1
            mem := m
            unsettled := r
            ph := engineAt i .sr } ∧
        Memory.read m (s.leg.rx.toNat + s.rxc.toNat) = u.extractLsb' 0 8 ∧
        (legUnit s.leg = 2 → Memory.read m (s.leg.rx.toNat + s.rxc.toNat + 1) = u.extractLsb' 8 8) ∧
        (∀ a : Nat, a < s.leg.rx.toNat + s.rxc.toNat ∨ s.leg.rx.toNat + s.rxc.toNat + legUnit s.leg ≤ a →
          Memory.read m a = Memory.read s.mem a) ∧
        (∀ a ∈ r, a ∈ s.unsettled)) ∧
    (0 < s.fifoLvl → s.rxc.toNat + legUnit s.leg ≤ s.leg.len.toNat → s.ssp.rxq ≠ [] → s.leg.rxp = true →
      (∃ k < legUnit s.leg, admitted s (s.leg.rx.toNat + s.rxc.toNat + k) = false) →
      exec i s = .fault .bufferRefused)

/-- R93, R48, R47: a push, in both instructions that run it: the unit of the transmit buffer at LEG.tx + TXC, little-endian,
or a zero unit, goes to the tail of TXQ, and the cursor and the counter advance, memory unchanged; a full TXQ raises
TxFifoOverflow. A byte HOST has raced on is a free value (R56; log 15). -/
def Obligations.PushMovesOneUnit : Prop :=
  ∀ (i : Instr) (s : State), runsEngine i = true → At (engineAt i .push) s →
    (s.leg.txp = false → s.ssp.txq.length < 8 →
      exec i s =
        .next (engineFilled i { s with
          ssp := { s.ssp with txq := s.ssp.txq ++ [0] }
          txc := s.txc + BitVec.ofNat 32 (legUnit s.leg)
          fifoLvl := s.fifoLvl + 1 })) ∧
    (s.leg.txp = true → s.ssp.txq.length < 8 →
      (∀ k < legUnit s.leg, admitted s (s.leg.tx.toNat + s.txc.toNat + k) = true) →
      ∃ (v : FifoUnit) (n : Nat),
        exec i s =
          .next (engineFilled i { s with
            ssp := { s.ssp with txq := s.ssp.txq ++ [v] }
            txc := s.txc + BitVec.ofNat 32 (legUnit s.leg)
            fifoLvl := s.fifoLvl + 1
            draws := n }) ∧
        (s.leg.tx.toNat + s.txc.toNat ∉ s.raced →
          v.extractLsb' 0 8 = Memory.read s.mem (s.leg.tx.toNat + s.txc.toNat)) ∧
        (legUnit s.leg = 2 → s.leg.tx.toNat + s.txc.toNat + 1 ∉ s.raced →
          v.extractLsb' 8 8 = Memory.read s.mem (s.leg.tx.toNat + s.txc.toNat + 1)) ∧
        (legUnit s.leg = 1 → v.extractLsb' 8 8 = 0) ∧
        (s.raced = [] → n = s.draws)) ∧
    (8 ≤ s.ssp.txq.length →
      (s.leg.txp = true → ∀ k < legUnit s.leg, admitted s (s.leg.tx.toNat + s.txc.toNat + k) = true) →
      ∃ n : Nat, exec i s = .next (raised .txFifoOverflow { s with draws := n })) ∧
    (s.leg.txp = true → (∃ k < legUnit s.leg, admitted s (s.leg.tx.toNat + s.txc.toNat + k) = false) →
      exec i s = .fault .bufferRefused)

/-- R95, R90: with RXQ empty and no other agent in between, the prime makes one SR read and
min(8 - FIFOLVL, (LEG.len - TXC) / LEG.unit) pushes, of the transmit buffer's next units in order or of zero units. -/
def Obligations.PrimeFillsTheFifo : Prop :=
  ∀ (s : State) (bs : List Bool), At (.transferOne (.engine .sr)) s → s.ssp.rxq = [] → LegGeometry s.leg →
    legUnit s.leg ∣ s.txc.toNat → s.txc.toNat ≤ s.leg.len.toNat → s.fifoLvl ≤ 8 → s.ssp.txq.length ≤ s.fifoLvl →
    (s.leg.txp = true → ∀ k : Nat, s.txc.toNat ≤ k → k < s.leg.len.toNat →
      admitted s (s.leg.tx.toNat + k) = true ∧ s.leg.tx.toNat + k ∉ s.raced) →
    bs.length = min (8 - s.fifoLvl) ((s.leg.len.toNat - s.txc.toNat) / legUnit s.leg) + 1 →
    ∃ (a : Bool) (us : List FifoUnit),
      us.length = min (8 - s.fifoLvl) ((s.leg.len.toNat - s.txc.toNat) / legUnit s.leg) ∧
      blockRun bs .transferOne s =
        .next { s with
          answer := a
          ssp := { s.ssp with txq := s.ssp.txq ++ us }
          txc := BitVec.ofNat 32 (s.txc.toNat + us.length * legUnit s.leg)
          fifoLvl := s.fifoLvl + us.length
          ph := .transferOne (.cr1 .read) } ∧
      ∀ (k : Nat) (v : FifoUnit), us[k]? = some v →
        (s.leg.txp = false → v = 0) ∧
        (s.leg.txp = true →
          v.extractLsb' 0 8 = Memory.read s.mem (s.leg.tx.toNat + s.txc.toNat + k * legUnit s.leg) ∧
          (legUnit s.leg = 2 →
            v.extractLsb' 8 8 = Memory.read s.mem (s.leg.tx.toNat + s.txc.toNat + k * legUnit s.leg + 1)))

/-- R97's receive side in an interrupt with no other agent in between: the drain pops every unit of RXQ and stores them in
order from LEG.rx + RXC on, every other byte of memory kept and no byte becoming a draw. -/
def Obligations.DrainStoresUnitsInOrder : Prop :=
  ∀ (s : State) (bs : List Bool), At (.evtIrq (.engine .sr)) s → MemInv s → LegGeometry s.leg → s.leg.rxp = true →
    s.ssp.rxq.length ≤ s.fifoLvl → s.rxc.toNat + s.ssp.rxq.length * legUnit s.leg ≤ s.leg.len.toNat →
    (∀ k : Nat, s.rxc.toNat ≤ k → k < s.leg.len.toNat → admitted s (s.leg.rx.toNat + k) = true) →
    bs.length = 2 * s.ssp.rxq.length →
    ∃ (a : Bool) (m : List Host.Cell) (r : List Nat),
      blockRun bs .evtIrq s =
        .next { s with
          answer := a
          ssp := { s.ssp with rxq := [] }
          rxc := BitVec.ofNat 32 (s.rxc.toNat + s.ssp.rxq.length * legUnit s.leg)
          fifoLvl := s.fifoLvl - s.ssp.rxq.length
          mem := m
          unsettled := r } ∧
      (∀ a ∈ r, a ∈ s.unsettled) ∧
      (∀ (k : Nat) (u : FifoUnit), s.ssp.rxq[k]? = some u →
        Memory.read m (s.leg.rx.toNat + s.rxc.toNat + k * legUnit s.leg) = u.extractLsb' 0 8 ∧
        (legUnit s.leg = 2 →
          Memory.read m (s.leg.rx.toNat + s.rxc.toNat + k * legUnit s.leg + 1) = u.extractLsb' 8 8)) ∧
      (∀ b : Nat, b < s.leg.rx.toNat + s.rxc.toNat ∨
          s.leg.rx.toNat + s.rxc.toNat + s.ssp.rxq.length * legUnit s.leg ≤ b →
        Memory.read m b = Memory.read s.mem b)

/-- R46, R92, R54: of all nine instructions' steps only a pop of a leg with a receive buffer stores to memory, and only the
unit at LEG.rx + RXC: every other byte reads as before. -/
def Obligations.OnlyPopStores : Prop :=
  ∀ (i : Instr) (s t : State) (a : Nat), MemInv s → exec i s = .next t →
    ¬ (runsEngine i = true ∧ s.ph = engineAt i .pop ∧ s.leg.rxp = true ∧
      s.leg.rx.toNat + s.rxc.toNat ≤ a ∧ a < s.leg.rx.toNat + s.rxc.toNat + legUnit s.leg) →
    Memory.read t.mem a = Memory.read s.mem a

/-! ### DMA -/

/-- R101, R99, R100: the steps that prepare a direction: the slave configuration with DR's address, the unit as width and
the direction, the table reused on the same count and else freed and asked for again, its contents always refreshed, the map
and the descriptor; a failure starts the unwinding, after an Unmap where the descriptor was refused. -/
def Obligations.DmaPrepareSteps : Prop :=
  ∀ (s : State) (d : Dir),
    (At (dmaAt (.slaveConfig d)) s →
      exec .transferOne s =
        .next (moveTo (dmaAt (if segCount s.params s.leg = (chan s d).segs.length then .map d else .allocTable d))
          (setChan s d { chan s d with
            slave := some {
              addr := s.params.sspBase + 8
              width := legUnit s.leg
              direction := match d with | .rx => .devToMem | .tx => .memToDev }
            segs := if segCount s.params s.leg = (chan s d).segs.length then segmentsOf s.params s.leg d else [] }))) ∧
    (At (dmaAt (.allocTable d)) s → s.answer = true →
      exec .transferOne s =
        .next (moveTo (dmaAt (.map d))
          (setChan s d { chan s d with
            segs := segmentsOf s.params s.leg d, reallocs := (chan s d).reallocs + 1 }))) ∧
    (At (dmaAt (.map d)) s → s.answer = true →
      exec .transferOne s = .next (moveTo (dmaAt (.prep d)) (setChan s d { chan s d with mapped := true }))) ∧
    (At (dmaAt (.prep d)) s → s.answer = true →
      exec .transferOne s =
        .next (moveTo (dmaAt (match d with | .rx => .slaveConfig .tx | .tx => .setCallback))
          (setChan s d { chan s d with desc := .prepared }))) ∧
    (At (dmaAt (.prep d)) s → s.answer = false → exec .transferOne s = .next (moveTo (dmaAt (.unmapFailed d)) s)) ∧
    (At (dmaAt (.allocTable d)) s ∨ At (dmaAt (.map d)) s → s.answer = false →
      exec .transferOne s = .next (dmaUnwind s)) ∧
    (At (dmaAt (.unmapFailed d)) s →
      exec .transferOne s = .next (dmaUnwind (setChan s d { chan s d with mapped := false })))

/-- R102: with every request granted and no other agent in between, the DMA start leaves both tables built for the leg and
mapped, both descriptors issued with nothing moved yet, the callback registered, and the leg active with result WAIT; no SSP
register, cursor or byte of memory changes. The last step is stated too. -/
def Obligations.DmaStartRuns : Prop :=
  (∀ s : State, At (dmaAt (.slaveConfig .rx)) s → DmaQuiet s →
    ∃ a : Bool, blockRun (List.replicate 13 true) .transferOne s =
      .next { s with
        answer := a
        rx := { s.rx with
          slave := some { addr := s.params.sspBase + 8, width := legUnit s.leg, direction := .devToMem }
          segs := segmentsOf s.params s.leg .rx
          reallocs := s.rx.reallocs + (if segCount s.params s.leg = s.rx.segs.length then 0 else 1)
          mapped := true
          desc := .issued
          moved := 0 }
        tx := { s.tx with
          slave := some { addr := s.params.sspBase + 8, width := legUnit s.leg, direction := .memToDev }
          segs := segmentsOf s.params s.leg .tx
          reallocs := s.tx.reallocs + (if segCount s.params s.leg = s.tx.segs.length then 0 else 1)
          mapped := true
          desc := .issued
          moved := 0 }
        cb := true
        legMode := .dma
        fsm := .transferActive
        lastRes := .wait
        ph := .ready }) ∧
  (∀ s : State, At (dmaAt (.issue .tx)) s →
    exec .transferOne s =
      .next { s with
        tx := { s.tx with desc := .issued, moved := 0 }
        legMode := .dma
        fsm := .transferActive
        lastRes := .wait
        ph := .ready })

/-- R103, R102, R140: whatever the draws, a DMA start with no other agent in between ends in WAIT with both descriptors
issued, or in DMA_PREPARE_FAILED with no table mapped, no descriptor and no callback, and then FSM, LEGMODE, the cursors, the
SSP and memory are as they were and each table keeps its own segments, the leg's, or none. -/
def Obligations.FailedDmaStartUnwinds : Prop :=
  ∀ (s : State) (bs : List Bool), At (dmaAt (.slaveConfig .rx)) s → DmaQuiet s → 15 ≤ bs.length →
    ∃ t : State, blockRun bs .transferOne s = .next t ∧ t.ph = .ready ∧ t.faults = [] ∧
      t.ssp = s.ssp ∧ t.mem = s.mem ∧ t.rxc = s.rxc ∧ t.txc = s.txc ∧ t.leg = s.leg ∧
      ((t.lastRes = .wait ∧ LegOn .dma t ∧ DmaIs t true true .issued .issued true) ∨
        (t.lastRes = .dmaPrepareFailed ∧ t.fsm = s.fsm ∧ t.legMode = s.legMode ∧ DmaQuiet t ∧
          ∀ d : Dir, (chan t d).segs = (chan s d).segs ∨ (chan t d).segs = segmentsOf s.params s.leg d ∨
            (chan t d).segs = []))

/-- R100, R124: a leg's table has ceil(len / PAGE_SIZE) segments, whose lengths add up to the leg; segment i is at
i·PAGE_SIZE of a present buffer, else the scratch page's start, of length min(PAGE_SIZE, len - i·PAGE_SIZE); and byte n of
the leg lies in segment n / PAGE_SIZE at offset n % PAGE_SIZE. -/
def Obligations.SegmentsCoverTheLeg : Prop :=
  ∀ (p : Params) (l : Leg) (d : Dir), 0 < p.pageSize →
    (segmentsOf p l d).length = (l.len.toNat + p.pageSize - 1) / p.pageSize ∧
    (8 < l.len.toNat → 1 ≤ (segmentsOf p l d).length) ∧
    segTotal (segmentsOf p l d) = l.len.toNat ∧
    (∀ (i : Nat) (g : Seg), (segmentsOf p l d)[i]? = some g →
      g.length = min p.pageSize (l.len.toNat - i * p.pageSize) ∧
      (legPresent l d = true → g.kind = .buf ∧ g.addr = legAddr l d + i * p.pageSize) ∧
      (legPresent l d = false → g.kind = .scratch ∧ g.addr = 0)) ∧
    (∀ n : Nat, n < l.len.toNat →
      ∃ g : Seg, (segmentsOf p l d)[n / p.pageSize]? = some g ∧
        segAt (segmentsOf p l d) n = some (g, n % p.pageSize))

/-- R105: of all instructions' steps only a granted AllocTable makes a table's reallocation count grow, by one, and it is
asked for only when the leg's segment count differs from the table's; ATTACH sets the count to 0 and nothing else changes
it; and a table about to be mapped always holds the leg's segments. -/
def Obligations.TablesReallocateOnNewCount : Prop :=
  ∀ (i : Instr) (s t : State) (d : Dir), exec i s = .next t →
    ((chan t d).reallocs = (chan s d).reallocs + 1 ↔
      i = .transferOne ∧ s.ph = dmaAt (.allocTable d) ∧ s.answer = true) ∧
    ((chan t d).reallocs ≠ (chan s d).reallocs + 1 → (chan t d).reallocs ≠ (chan s d).reallocs →
      i = .attach ∧ (chan t d).reallocs = 0) ∧
    (t.ph = dmaAt (.allocTable d) → t.ph ≠ s.ph →
      s.ph = dmaAt (.slaveConfig d) ∧ segCount s.params s.leg ≠ (chan s d).segs.length) ∧
    (t.ph = dmaAt (.map d) → t.ph ≠ s.ph → (chan t d).segs = segmentsOf s.params s.leg d)

/-! ### Events -/

/-- R108, R109, R110: EVT_IRQ faults outside an active PIO leg, else reads IIR; RORIS leads to the ICR write, IoError and
Aborting with no FIFO access, and any other value to one engine invocation; Finish clears the three enables by a read and a
write, sends one Finalize with MSGST and returns to Idle. (PH after the fault is the model's choice: log 11, log 18.) -/
def Obligations.IrqSteps : Prop :=
  ∀ s : State,
    (Free s → LegOn .pio s → exec .evtIrq s = .next { s with ph := .evtIrq .readIir }) ∧
    (Free s → ¬ LegOn .pio s →
      exec .evtIrq s = .next (raised .spuriousInterrupt { s with ph := .evtIrq .start })) ∧
    (At (.evtIrq .readIir) s → s.ssp.roris = true → s.ssp.cr1.getLsbD 2 = true →
      exec .evtIrq s = .next { s with ph := .evtIrq .writeIcr }) ∧
    (At (.evtIrq .readIir) s → s.ssp.roris = false ∨ s.ssp.cr1.getLsbD 2 = false →
      exec .evtIrq s = .next { s with ph := .evtIrq (.engine .sr) }) ∧
    (At (.evtIrq .writeIcr) s →
      exec .evtIrq s =
        .next { s with
          ssp := { s.ssp with roris := false }, msgSt := .ioError, fsm := .aborting, ph := .evtIrq (.cr1 .read) }) ∧
    (At (.evtIrq (.cr1 .read)) s → exec .evtIrq s = .next { s with ph := .evtIrq (.cr1 (.write s.ssp.cr1)) }) ∧
    (∀ v : Word, At (.evtIrq (.cr1 (.write v))) s →
      exec .evtIrq s =
        .next { s with
          ssp := { s.ssp with cr1 := v &&& 0xFFFFFFF8 }
          finCnt := s.finCnt + 1
          finLog := s.msgSt :: s.finLog
          fsm := .idle
          legMode := .none
          ph := .ready })

/-- R111, R109: an interrupt of an active PIO leg that reads RORIS = 1, with no other agent in between, ends the leg with
IoError, CR1[2:0] = 0, one Finalize(IoError) and FSM = Idle; the queues, the counter, the cursors and memory are kept. -/
def Obligations.OverrunFailsTheMessage : Prop :=
  ∀ (s : State) (bs : List Bool), Free s → LegOn .pio s → s.ssp.roris = true → s.ssp.cr1.getLsbD 2 = true →
    5 ≤ bs.length →
    ∃ a : Bool, blockRun bs .evtIrq s =
      .next { s with
        answer := a
        ssp := { s.ssp with roris := false, cr1 := s.ssp.cr1 &&& 0xFFFFFFF8 }
        msgSt := .ioError
        finCnt := s.finCnt + 1
        finLog := .ioError :: s.finLog
        fsm := .idle
        legMode := .none
        ph := .ready }

/-- R104: EVT_DMA_RX_DONE: the two faults in their order, and the completion of a DMA leg whose transmit side has moved every
byte, from its start to its end and its last step: both tables unmapped, descriptors and callback gone, both cursors at the
length, one Finalize with MSGST, no SSP register written. (That both checks belong to the step that takes the event, and PH
after a fault, are the model's choice: log 11, log 18.) -/
def Obligations.DmaDoneRuns : Prop :=
  ∀ s : State,
    (Free s → ¬ LegOn .dma s →
      exec .evtDmaRxDone s = .next (raised .spuriousDmaCallback { s with ph := .evtDmaRxDone .start })) ∧
    (Free s → LegOn .dma s → s.tx.moved < s.leg.len.toNat →
      exec .evtDmaRxDone s =
        .next (raised .txDmaStillActive { s with pendRx := false, ph := .evtDmaRxDone .start })) ∧
    (∀ bs : List Bool, Free s → LegOn .dma s → s.leg.len.toNat ≤ s.tx.moved → 3 ≤ bs.length →
      ∃ a : Bool, blockRun bs .evtDmaRxDone s =
        .next { s with
          answer := a
          pendRx := false
          rx := { s.rx with mapped := false, desc := .none }
          tx := { s.tx with mapped := false, desc := .none }
          cb := false
          rxc := s.leg.len
          txc := s.leg.len
          finCnt := s.finCnt + 1
          finLog := s.msgSt :: s.finLog
          fsm := .idle
          legMode := .none
          ph := .ready }) ∧
    (At (.evtDmaRxDone .unmapTx) s →
      exec .evtDmaRxDone s =
        .next { s with
          rx := { s.rx with desc := .none }
          tx := { s.tx with mapped := false, desc := .none }
          cb := false
          rxc := s.leg.len
          txc := s.leg.len
          finCnt := s.finCnt + 1
          finLog := s.msgSt :: s.finLog
          fsm := .idle
          legMode := .none
          ph := .ready })

/-! ### Environment agents and the host port -/

/-- R123: a shift takes the head of TXQ and appends one received unit to RXQ, or loses it and sets RORIS_RAW when RXQ is
full; with SSE = 0 or TXQ empty nothing shifts; and the received units are exactly the values below 2^(CR0[3:0] + 1). -/
def Obligations.ShiftMovesOneUnit : Prop :=
  ∀ s : State,
    (∀ v : FifoUnit, s.ssp.cr1.getLsbD 4 = false ∨ s.ssp.txq = [] → perform (.shift v) s = .next s) ∧
    (∀ (v u : FifoUnit) (q : List FifoUnit), s.ssp.cr1.getLsbD 4 = true → s.ssp.txq = u :: q →
      perform (.shift v) s =
        .next { s with
          ssp :=
            if s.ssp.rxq.length < 8 then { s.ssp with txq := q, rxq := s.ssp.rxq ++ [cutReceived s.ssp v] }
            else { s.ssp with txq := q, roris := true } }) ∧
    (∀ x : Nat, (∃ v : FifoUnit, (cutReceived s.ssp v).toNat = x) ↔ x < 2 ^ (s.ssp.cr0.toNat % 16 + 1))

/-- R124, R47: a DMA_TX step appends the unit of the table's byte TXMOVED to TXQ, zero for scratch, and counts its bytes;
it has no step when the channel is not issued, is done, TXQ is full, or the memory refuses a byte; memory is unchanged. -/
def Obligations.DmaTxMovesOneUnit : Prop :=
  ∀ s : State,
    (¬ (s.tx.desc = .issued ∧ s.tx.moved < segTotal s.tx.segs ∧ s.ssp.txq.length < 8) →
      perform .dmaTx s = .next s) ∧
    (∀ (g : Seg) (off : Nat), s.tx.desc = .issued → s.tx.moved < segTotal s.tx.segs → s.ssp.txq.length < 8 →
      segAt s.tx.segs s.tx.moved = some (g, off) →
      (g.kind = .scratch →
        perform .dmaTx s =
          .next { s with
            ssp := { s.ssp with txq := s.ssp.txq ++ [0] }
            tx := { s.tx with moved := s.tx.moved + legUnit s.leg } }) ∧
      (g.kind = .buf → (∀ k < legUnit s.leg, admitted s (g.addr + off + k) = true) →
        ∃ (v : FifoUnit) (n : Nat),
          perform .dmaTx s =
            .next { s with
              ssp := { s.ssp with txq := s.ssp.txq ++ [v] }
              tx := { s.tx with moved := s.tx.moved + legUnit s.leg }
              draws := n } ∧
          (g.addr + off ∉ s.raced → v.extractLsb' 0 8 = Memory.read s.mem (g.addr + off)) ∧
          (legUnit s.leg = 2 → g.addr + off + 1 ∉ s.raced →
            v.extractLsb' 8 8 = Memory.read s.mem (g.addr + off + 1)) ∧
          (legUnit s.leg = 1 → v.extractLsb' 8 8 = 0)) ∧
      (g.kind = .buf → (∃ k < legUnit s.leg, admitted s (g.addr + off + k) = false) → perform .dmaTx s = .next s)) ∧
    (s.tx.moved < segTotal s.tx.segs →
      ∃ (g : Seg) (off : Nat), segAt s.tx.segs s.tx.moved = some (g, off) ∧ g ∈ s.tx.segs ∧ off < g.length)

/-- R124, R33, R47: a DMA_RX step takes the head of RXQ to the table's byte RXMOVED, little-endian, or discards it for
scratch, counts its bytes, and makes the callback pending with the last byte when it is registered; every other byte of
memory is kept and none becomes a draw; it has no step when the channel is not issued, is done, RXQ is empty, or the memory refuses a byte. -/
def Obligations.DmaRxMovesOneUnit : Prop :=
  ∀ s : State,
    (¬ (s.rx.desc = .issued ∧ s.rx.moved < segTotal s.rx.segs ∧ s.ssp.rxq ≠ []) → perform .dmaRx s = .next s) ∧
    (∀ (g : Seg) (off : Nat) (u : FifoUnit) (q : List FifoUnit), s.rx.desc = .issued →
      s.rx.moved < segTotal s.rx.segs → s.ssp.rxq = u :: q → segAt s.rx.segs s.rx.moved = some (g, off) →
      (g.kind = .scratch →
        perform .dmaRx s =
          .next { s with
            ssp := { s.ssp with rxq := q }
            rx := { s.rx with moved := s.rx.moved + legUnit s.leg }
            pendRx := s.pendRx || (decide (s.rx.moved + legUnit s.leg = segTotal s.rx.segs) && s.cb) }) ∧
      (g.kind = .buf → MemInv s → (∀ k < legUnit s.leg, admitted s (g.addr + off + k) = true) →
        ∃ (m : List Host.Cell) (r : List Nat),
          perform .dmaRx s =
            .next { s with
              ssp := { s.ssp with rxq := q }
              rx := { s.rx with moved := s.rx.moved + legUnit s.leg }
              pendRx := s.pendRx || (decide (s.rx.moved + legUnit s.leg = segTotal s.rx.segs) && s.cb)
              mem := m
              unsettled := r } ∧
          (∀ a ∈ r, a ∈ s.unsettled) ∧
          Memory.read m (g.addr + off) = u.extractLsb' 0 8 ∧
          (legUnit s.leg = 2 → Memory.read m (g.addr + off + 1) = u.extractLsb' 8 8) ∧
          (∀ a : Nat, a < g.addr + off ∨ g.addr + off + legUnit s.leg ≤ a →
            Memory.read m a = Memory.read s.mem a)) ∧
      (g.kind = .buf → (∃ k < legUnit s.leg, admitted s (g.addr + off + k) = false) → perform .dmaRx s = .next s))

/-- R43, R71: what a HOST read of every offset answers, with no side effect; a read of CMD, of an offset the map does not
have or of a misaligned one raises IllegalAccess. The value read is kept in the model's own hostData (log 16). -/
def Obligations.HostReads : Prop :=
  ∀ (s : State) (off : Nat),
    let map : List (Nat × Word) :=
      [(0x04, statusValue s), (0x08, s.rxc), (0x0C, s.txc), (0x10, s.args.txAddr.getD 0), (0x14, s.args.rxAddr.getD 0),
       (0x18, s.args.len.getD 0), (0x1C, s.args.cfg.getD 0), (0x20, s.args.speed.getD 0), (0x24, s.divRes),
       (0x28, s.minHz), (0x2C, s.maxHz), (0x30, s.faultCode.setWidth 32), (0x34, s.finCnt), (0x38, sgValue s.rx),
       (0x3C, sgValue s.tx)]
    (∀ v : Word, (off, v) ∈ map → perform (.host (.read off)) s = .next { s with hostData := v }) ∧
    ((∀ v : Word, (off, v) ∉ map) → perform (.host (.read off)) s = .next (raised .illegalAccess s))

/-- R71, R23: a HOST write at PH = Ready stores the argument it names, which is then no longer Unwritten; a write to any
other offset but CMD raises IllegalAccess. (At PH = Busy a write has no step: InputsWaitForTheirCondition.) -/
def Obligations.HostWrites : Prop :=
  ∀ (s : State) (v : Word), Free s →
    perform (.host (.write 0x10 v)) s = .next { s with args := { s.args with txAddr := some v } } ∧
    perform (.host (.write 0x14 v)) s = .next { s with args := { s.args with rxAddr := some v } } ∧
    perform (.host (.write 0x18 v)) s = .next { s with args := { s.args with len := some v } } ∧
    perform (.host (.write 0x1C v)) s = .next { s with args := { s.args with cfg := some v } } ∧
    perform (.host (.write 0x20 v)) s = .next { s with args := { s.args with speed := some v } } ∧
    (∀ off : Nat, off ∉ [0x00, 0x10, 0x14, 0x18, 0x1C, 0x20] →
      perform (.host (.write off v)) s = .next (raised .illegalAccess s))

/-- R44, R68, R20, R21, R34: every field of STATUS, the bits between them 0, its value at reset, and the fields of SGRX and
SGTX. -/
def Obligations.StatusAndTableWords : Prop :=
  (∀ s : State,
    (statusValue s).extractLsb' 0 2 = (match s.fsm with | .idle => 0 | .transferActive => 1 | .aborting => 2 | .done => 3) ∧
    (statusValue s).extractLsb' 2 2 = (match s.legMode with | .none => 0 | .pio => 1 | .dma => 2) ∧
    ((statusValue s).getLsbD 4 = true ↔ s.life = .attached) ∧
    (statusValue s).getLsbD 5 = s.hwp ∧
    (statusValue s).getLsbD 6 = s.dmaAv ∧
    ((statusValue s).getLsbD 7 = true ↔ s.ph ≠ .ready) ∧
    (statusValue s).extractLsb' 8 4 =
      (match s.lastRes with
        | .ok => 0 | .wait => 1 | .unsupportedRate => 2 | .flushTimeout => 3 | .dmaPrepareFailed => 4) ∧
    ((statusValue s).getLsbD 12 = true ↔ s.msgSt = .ioError) ∧
    (statusValue s).extractLsb' 13 3 = 0 ∧
    (statusValue s).extractLsb' 16 4 = BitVec.ofNat 4 s.fifoLvl ∧
    (statusValue s).getLsbD 20 = s.clken ∧
    (statusValue s).extractLsb' 21 10 = 0 ∧
    ((statusValue s).getLsbD 31 = true ↔ s.faults ≠ [])) ∧
  statusValue State.reset = 0x00000000 ∧
  (∀ c : Chan,
    (sgValue c).extractLsb' 0 16 = BitVec.ofNat 16 c.segs.length ∧
    (sgValue c).extractLsb' 16 15 = BitVec.ofNat 15 c.reallocs ∧
    (sgValue c).getLsbD 31 = c.mapped)

/-- R39, R41, R118: the five bits of SR and the three of IIR, computed from the queues and CR1, every other bit 0; and the
line is asserted exactly when IIR does not read 0. -/
def Obligations.SspStatusAndInterrupts : Prop :=
  ∀ (q : Params) (p : Ssp),
    ((srValue p).getLsbD 0 = true ↔ p.txq.length = 0) ∧
    ((srValue p).getLsbD 1 = true ↔ p.txq.length < 8) ∧
    ((srValue p).getLsbD 2 = true ↔ 0 < p.rxq.length) ∧
    ((srValue p).getLsbD 3 = true ↔ p.rxq.length = 8) ∧
    ((srValue p).getLsbD 4 = true ↔ 0 < p.txq.length) ∧
    srValue p >>> 5 = 0 ∧
    ((iirValue q p).getLsbD 0 = true ↔ q.rxIrqLevel ≤ p.rxq.length ∧ p.cr1.getLsbD 0 = true) ∧
    ((iirValue q p).getLsbD 1 = true ↔ p.txq.length ≤ q.txIrqLevel ∧ p.cr1.getLsbD 1 = true) ∧
    ((iirValue q p).getLsbD 2 = true ↔ p.roris = true ∧ p.cr1.getLsbD 2 = true) ∧
    iirValue q p >>> 3 = 0 ∧
    (irqLine q p = true ↔ iirValue q p ≠ 0)

/-- R14, R38, R39, R40, R41, R46(b), R51: the SSP register map, and every access: a DR read pops the head of RXQ,
zero-extended, or faults; a DR write pushes v[15:0] or faults; an ICR write clears RORIS_RAW alone; the other registers hold
the last value written, and reading them changes nothing. SR is read-only, and no other offset has a register. -/
def Obligations.SspAccesses : Prop :=
  (∀ p : Params,
    sspAddr p (sspOffset .cr0) = p.sspBase + 0x00 ∧ sspAddr p (sspOffset .cr1) = p.sspBase + 0x04 ∧
    sspAddr p (sspOffset .dr) = p.sspBase + 0x08 ∧ sspAddr p (sspOffset .sr) = p.sspBase + 0x0C ∧
    sspAddr p (sspOffset .cpsr) = p.sspBase + 0x10 ∧ sspAddr p (sspOffset .iir) = p.sspBase + 0x14 ∧
    drPhys p = p.sspBase + 0x08) ∧
  (∀ (s : State) (v : Word),
    (∀ (u : FifoUnit) (q : List FifoUnit), s.ssp.rxq = u :: q →
      ioRead32 0x08 s = .ok (u.setWidth 32, { s with ssp := { s.ssp with rxq := q } })) ∧
    (s.ssp.rxq = [] → ioRead32 0x08 s = .error (.next (raised .rxFifoUnderflow s))) ∧
    (s.ssp.txq.length < 8 →
      ioWrite32 0x08 v s = .ok { s with ssp := { s.ssp with txq := s.ssp.txq ++ [v.setWidth 16] } }) ∧
    (8 ≤ s.ssp.txq.length → ioWrite32 0x08 v s = .error (.next (raised .txFifoOverflow s))) ∧
    ioWrite32 0x14 v s = .ok { s with ssp := { s.ssp with roris := false } } ∧
    ioWrite32 0x00 v s = .ok { s with ssp := { s.ssp with cr0 := v } } ∧
    ioWrite32 0x04 v s = .ok { s with ssp := { s.ssp with cr1 := v } } ∧
    ioWrite32 0x10 v s = .ok { s with ssp := { s.ssp with cpsr := v } } ∧
    ioRead32 0x00 s = .ok (s.ssp.cr0, s) ∧
    ioRead32 0x04 s = .ok (s.ssp.cr1, s) ∧
    ioRead32 0x10 s = .ok (s.ssp.cpsr, s) ∧
    ioRead32 0x0C s = .ok (srValue s.ssp, s) ∧
    ioRead32 0x14 s = .ok (iirValue s.params s.ssp, s) ∧
    ioWrite32 0x0C v s = .error (.fault .noSspRegister) ∧
    (∀ off : Nat, off ∉ [0x00, 0x04, 0x08, 0x0C, 0x10, 0x14] →
      ioRead32 off s = .error (.fault .noSspRegister) ∧ ioWrite32 off v s = .error (.fault .noSspRegister)))

/-- R56, R47: outside a race HOST reads the byte memory holds and a HOST write is read back, every other byte kept; a HOST
access to a byte of the leg's buffers while the leg is owned is a race: a read returns a free value, and a write makes the
byte a draw at every later read by BLOCK or DMA, their own stores included, and to HOST until a store of theirs settles it
(how long is the model's choice: log 15); a byte the memory refuses gives HOST no step. -/
def Obligations.HostMemoryAndRaces : Prop :=
  ∀ (s : State) (a : Nat) (v : Byte), MemInv s →
    (admitted s a = false → perform (.host (.memRead a)) s = .next s ∧ perform (.host (.memWrite a v)) s = .next s) ∧
    (admitted s a = true → racing s a = false → a ∉ s.unsettled →
      perform (.host (.memRead a)) s = .next { s with hostData := (Memory.read s.mem a).setWidth 32 }) ∧
    (admitted s a = true → racing s a = true ∨ a ∈ s.unsettled →
      perform (.host (.memRead a)) s =
        .next { s with hostData := (Config.raceByte s.draws).setWidth 32, draws := s.draws + 1 }) ∧
    (admitted s a = true →
      ∃ t : State, perform (.host (.memWrite a v)) s = .next t ∧ Memory.read t.mem a = v ∧
        t = { s with mem := t.mem, raced := t.raced, unsettled := t.unsettled } ∧
        (∀ b : Nat, b ≠ a → Memory.read t.mem b = Memory.read s.mem b ∧ (b ∈ t.raced ↔ b ∈ s.raced) ∧
          (b ∈ t.unsettled ↔ b ∈ s.unsettled)) ∧
        (a ∈ t.raced ↔ racing s a = true) ∧ (a ∈ t.unsettled ↔ racing s a = true)) ∧
    (admitted s a = true → a ∈ s.raced →
      readByte s a = some (Config.raceByte s.draws, { s with draws := s.draws + 1 })) ∧
    (∀ t : State, writeByte s a v = some t →
      t.raced = s.raced ∧ a ∉ t.unsettled ∧ Memory.read t.mem a = v ∧
        ∀ b : Nat, b ≠ a → Memory.read t.mem b = Memory.read s.mem b ∧ (b ∈ t.unsettled ↔ b ∈ s.unsettled)) ∧
    (racing s a = true ↔
      (s.fsm ≠ .idle ∨ ∃ k, k ≠ .start ∧ s.ph = .transferOne k) ∧
      ((s.leg.txp = true ∧ s.leg.tx.toNat ≤ a ∧ a < s.leg.tx.toNat + s.leg.len.toNat) ∨
        (s.leg.rxp = true ∧ s.leg.rx.toNat ≤ a ∧ a < s.leg.rx.toNat + s.leg.len.toNat)))

/-! ### Reset and invariants -/

/-- R132: the reset value of every element of state, for every parameter, launch memory and draw; STATUS reads 0, no event is
enabled and no shift is. -/
def Obligations.ResetState : Prop :=
  ∀ (p : Params) (regions : List Region) (mem : List Host.Cell) (cr0 cr1 cpsr : Word) (rxq : List FifoUnit),
    let s := State.resetWith p regions mem cr0 cr1 cpsr rxq
    s.life = .detached ∧ s.hwp = false ∧ s.clken = false ∧ s.fsm = .idle ∧ s.legMode = .none ∧ s.ph = .ready ∧
    s.args.txAddr = none ∧ s.args.rxAddr = none ∧ s.args.len = none ∧ s.args.cfg = none ∧ s.args.speed = none ∧
    s.rxc = 0 ∧ s.txc = 0 ∧ s.fifoLvl = 0 ∧ s.msgSt = .ok ∧ s.lastRes = .ok ∧ s.faults = [] ∧ s.faultCode = 0 ∧
    s.divRes = 0 ∧ s.minHz = 0 ∧ s.maxHz = 0 ∧ s.finCnt = 0 ∧ s.dmaAv = false ∧ s.scratchValid = false ∧
    (∀ d : Dir, (chan s d).held = false ∧ (chan s d).segs = [] ∧ (chan s d).mapped = false ∧ (chan s d).reallocs = 0 ∧
      (chan s d).desc = .none ∧ (chan s d).moved = 0) ∧
    s.cb = false ∧ s.pendRx = false ∧ s.expired = false ∧
    s.ssp = { cr0 := cr0, cr1 := cr1, cpsr := cpsr, txq := [], rxq := rxq, roris := false } ∧
    s.mem = mem ∧ s.params = p ∧ s.regions = regions ∧
    statusValue s = 0 ∧ (∀ i : Instr, eventEnabled s i = false) ∧ (∀ v : FifoUnit, perform (.shift v) s = .next s)

/-- Every reset state of R132 meets every invariant stated below, whatever its draws; and State.reset is the one of them
with the draws, parameters and launch memory of log 5, 6, 8 and 9, which are the model's choice. -/
def Obligations.ResetMeetsTheInvariants : Prop :=
  State.reset = State.resetWith Params.default [{ base := 0, size := 2 ^ 32 }] [] 0 0 0 [] ∧
  ∀ (p : Params) (regions : List Region) (mem : List Host.Cell) (cr0 cr1 cpsr : Word) (rxq : List FifoUnit),
    Memory.wf mem = true → rxq.length ≤ 8 →
    let s := State.resetWith p regions mem cr0 cr1 cpsr rxq
    MemInv s ∧ FaultInv s ∧ ModeInv s ∧ FifoInv s ∧ CursorInv s ∧ DmaInv s ∧ PendInv s ∧ ResourceInv s ∧ Cr1Inv s

/-- R46, and the model's canonical form of memory: every step keeps memory and the raced addresses (log 15) in
canonical form. -/
def Obligations.MemoryStaysCanonical : Prop :=
  ∀ s t : State, MemInv s → step s = .next t → MemInv t

/-- R29, R115: no step takes a reason out of FAULTS or changes a FAULTCODE that is set, and FAULTCODE stays the code of a
reason in FAULTS; after a fault no step changes any element that BLOCK alone writes, nor an argument. (FAULTS as a list
sorted by code, which FaultInv states too, is the model's form: log 20.) -/
def Obligations.FaultsAreSticky : Prop :=
  ∀ s t : State, step s = .next t →
    (FaultInv s → FaultInv t) ∧
    (∀ r ∈ s.faults, r ∈ t.faults) ∧
    (s.faultCode ≠ 0 → t.faultCode = s.faultCode) ∧
    (s.faults ≠ [] →
      t.ph = s.ph ∧ t.fsm = s.fsm ∧ t.legMode = s.legMode ∧ t.life = s.life ∧ t.leg = s.leg ∧ t.args = s.args ∧
      t.rxc = s.rxc ∧ t.txc = s.txc ∧ t.fifoLvl = s.fifoLvl ∧ t.lastRes = s.lastRes ∧ t.msgSt = s.msgSt ∧
      t.finCnt = s.finCnt ∧ t.finLog = s.finLog ∧ t.hwp = s.hwp ∧ t.clken = s.clken ∧ t.divRes = s.divRes ∧
      t.minHz = s.minHz ∧ t.maxHz = s.maxHz ∧ t.dmaAv = s.dmaAv ∧ t.scratchValid = s.scratchValid ∧ t.cb = s.cb ∧
      (∀ d : Dir, (chan t d).held = (chan s d).held ∧ (chan t d).slave = (chan s d).slave ∧
        (chan t d).segs = (chan s d).segs ∧ (chan t d).mapped = (chan s d).mapped ∧
        (chan t d).reallocs = (chan s d).reallocs ∧ (chan t d).desc = (chan s d).desc) ∧
      t.ssp.cr0 = s.ssp.cr0 ∧ t.ssp.cr1 = s.ssp.cr1 ∧ t.ssp.cpsr = s.ssp.cpsr)

/-- R20, R21, R45(e): every step keeps FSM and LEGMODE among the pairs ModeInv lists for each PH; at PH = Ready this is
FSM = Idle if and only if LEGMODE = None, and never Aborting or Done. -/
def Obligations.ModesStayLegal : Prop :=
  (∀ s t : State, ModeInv s → step s = .next t → ModeInv t) ∧
  (∀ s : State, ModeInv s → s.ph = .ready →
    (s.fsm = .idle ↔ s.legMode = .none) ∧ s.fsm ≠ .aborting ∧ s.fsm ≠ .done)

/-- R107: every change of FSM is one of the table's: to TransferActive by the PIO arm or the last step of a DMA start, to
Aborting by the overrun branch, to Done by an engine that reached the length, and to Idle by the end of Finish or by the DMA
completion, whose Done is entered and left inside its last step (log 1). -/
def Obligations.FsmMovesOnlyAsListed : Prop :=
  ∀ s t : State, ModeInv s → step s = .next t → t.fsm ≠ s.fsm →
    (s.fsm = .idle ∧ t.fsm = .transferActive ∧
      ((∃ d, s.ph = .transferOne (.writeCr0 d) ∧ t.legMode = .pio) ∨
        (s.ph = dmaAt (.issue .tx) ∧ t.legMode = .dma ∧ t.lastRes = .wait))) ∨
    (s.fsm = .transferActive ∧ t.fsm = .aborting ∧ s.ph = .evtIrq .writeIcr ∧ t.msgSt = .ioError) ∨
    (s.fsm = .transferActive ∧ t.fsm = .done ∧ (s.ph = .evtIrq (.engine .sr) ∨ s.ph = .evtIrq (.engine .push)) ∧
      t.rxc = t.leg.len) ∨
    (s.fsm = .transferActive ∧ t.fsm = .idle ∧ s.ph = .evtDmaRxDone .unmapTx ∧ t.rxc = t.leg.len) ∨
    ((s.fsm = .aborting ∨ s.fsm = .done) ∧ t.fsm = .idle ∧ ∃ v, s.ph = .evtIrq (.cr1 (.write v)))

/-- R26, R42, R25, R45(a), (b), (c), R94: every step keeps FIFOLVL and both queues within 8, both cursors within the leg
while FSM ≠ Idle and on the unit of a PIO leg, and a latched leg whole units. -/
def Obligations.CountersAndCursorsStayInRange : Prop :=
  ∀ s t : State, ModeInv s → FifoInv s → CursorInv s → step s = .next t → FifoInv t ∧ CursorInv t

/-- R106, R45(d), R124, R32: every step keeps what is mapped, prepared, submitted, issued and registered at each PH as
DmaInv lists it, the callback pending only for a receive channel that has moved its whole table, and the three resources as
ResourceInv lists them; so outside ATTACH and DETACH DMAAV, SCRATCH.valid and both channels held agree, and none is held
while detached. -/
def Obligations.DmaResourcesStayConsistent : Prop :=
  (∀ s t : State, ModeInv s → DmaInv s → PendInv s → step s = .next t → DmaInv t ∧ PendInv t) ∧
  (∀ s t : State, ModeInv s → ResourceInv s → step s = .next t → ResourceInv t) ∧
  (∀ s : State, ResourceInv s → (∀ k, s.ph ≠ .attach k) → (∀ k, s.ph ≠ .detach k) →
    s.scratchValid = s.dmaAv ∧ s.rx.held = s.dmaAv ∧ s.tx.held = s.dmaAv ∧
    (s.life = .detached → s.dmaAv = false ∧ s.scratchValid = false ∧ s.rx.held = false ∧ s.tx.held = false))

/-- R58, R83, R95, R102, R110: every step keeps CR1 in step with the block: the enables clear but for a PIO leg and set once
it is armed, SSE set while prepared, and the value held between the two steps of a read-modify-write still CR1's. -/
def Obligations.Cr1FollowsTheBlock : Prop :=
  ∀ s t : State, ModeInv s → Cr1Inv s → step s = .next t → Cr1Inv t

/-- R96: a PIO leg whose counter is truthful stays so at every step of every agent, until it has moved all its bytes and
left nothing behind; RORIS_RAW stays 0 (CleanLeg) and none of the four FIFO faults is raised. -/
def Obligations.CleanLegStaysTruthful : Prop :=
  (∀ s t : State, ModeInv s → CleanLeg s → step s = .next t →
    (CleanLeg t ∨ LegComplete t) ∧ ∀ r : Reason, fifoFault r = true → r ∈ t.faults → r ∈ s.faults) ∧
  (∀ (s t : State) (d : Nat), ModeInv s → At (.transferOne (.writeCr0 d)) s → LegGeometry s.leg →
    s.fifoLvl = 0 → s.ssp.txq = [] → s.ssp.rxq = [] → s.ssp.roris = false → s.rx.desc ≠ .issued → s.tx.desc ≠ .issued →
    exec .transferOne s = .next t → t.legMode = .pio → CleanLeg t)

/-- R112, R31: FINCNT and the notifications change exactly when a leg ends (FSM goes to Idle), by one Finalize carrying
MSGST; a leg is armed exactly by a step that leaves FSM = TransferActive from Idle. -/
def Obligations.FinalizeOncePerLeg : Prop :=
  ∀ s t : State, ModeInv s → step s = .next t →
    (s.fsm ≠ .idle → t.fsm = .idle → t.finCnt = s.finCnt + 1 ∧ t.finLog = s.msgSt :: s.finLog ∧ t.ph = .ready) ∧
    (¬ (s.fsm ≠ .idle ∧ t.fsm = .idle) → t.finCnt = s.finCnt ∧ t.finLog = s.finLog)

/-- R106, R45(e), R110, R112: at PH = Ready with FSM = Idle nothing is mapped, no descriptor exists and no event is enabled;
and an event enabled at PH = Ready finds the leg it needs, so that neither spurious fault is ever raised. -/
def Obligations.IdleBlockIsQuiet : Prop :=
  ∀ s : State, ModeInv s → DmaInv s → PendInv s → Cr1Inv s → s.ph = .ready →
    (s.fsm = .idle → DmaQuiet s ∧ ∀ i : Instr, eventEnabled s i = false) ∧
    (eventEnabled s .evtIrq = true → LegOn .pio s) ∧
    (eventEnabled s .evtDmaRxDone = true → LegOn .dma s)

/-- R98: a clean PIO leg at PH = Ready that has not received all its bytes makes progress: a shift is enabled, or EVT_IRQ
is and finds a unit to pop or room and a byte to push. -/
def Obligations.CleanLegMakesProgress : Prop :=
  ∀ s : State, ModeInv s → Cr1Inv s → CleanLeg s → s.ph = .ready → s.rxc.toNat < s.leg.len.toNat →
    (∃ (u : FifoUnit) (q : List FifoUnit), s.ssp.txq = u :: q ∧
      ∀ v : FifoUnit, (sspShift v s.ssp).txq = q ∧ (sspShift v s.ssp).rxq.length = s.ssp.rxq.length + 1) ∨
    (s.ssp.txq = [] ∧ eventEnabled s .evtIrq = true ∧ (s.ssp.rxq ≠ [] ∨ (fillMore s = true ∧ s.txc = s.rxc)))

/-- R19, R24, R26, R27, R28, R30, R32, R34, R35, R55, R139: which of the nine instructions writes each element, so each leaves
every other unchanged; and an agent other than BLOCK, or a HOST access that starts no instruction, writes none of BLOCK's.
R26, R135: outside the pops and pushes of the FIFO engine FIFOLVL is written only in PREPARE_MSG, to 0, at an SR read with
RXQ empty (so not in ATTACH, against R81's pseudocode: the model's choice, log 22). -/
def Obligations.OnlyTheNamedInstructionsWrite : Prop :=
  (∀ (i : Instr) (s t : State), exec i s = .next t →
    t.params = s.params ∧ t.regions = s.regions ∧ t.args = s.args ∧ t.agenda = s.agenda ∧ t.tick = s.tick ∧
    t.answer = s.answer ∧ t.hostData = s.hostData ∧ t.raced = s.raced ∧
    (t.leg = s.leg ∨ i = .transferOne) ∧
    (t.lastRes = s.lastRes ∨ isEvent i = false) ∧
    ((t.hwp = s.hwp ∧ t.clken = s.clken) ∨ i ∈ [Instr.attach, .prepareHw, .unprepareHw]) ∧
    (t.msgSt = s.msgSt ∨ i ∈ [Instr.attach, .prepareMsg, .evtIrq]) ∧
    (t.fifoLvl = s.fifoLvl ∨
      (t.fifoLvl = 0 ∧ i = .prepareMsg ∧ s.ph = .prepareMsg .readSr ∧ s.ssp.rxq = [] ∧ t.lastRes = .ok) ∨
      (s.fifoLvl = t.fifoLvl + 1 ∧ t.ssp.rxq.length + 1 = s.ssp.rxq.length ∧ i ∈ [Instr.transferOne, .evtIrq]) ∨
      (t.fifoLvl = s.fifoLvl + 1 ∧ t.ssp.txq.length = s.ssp.txq.length + 1 ∧ i ∈ [Instr.transferOne, .evtIrq])) ∧
    ((t.rxc = s.rxc ∧ t.txc = s.txc) ∨ i ∈ [Instr.attach, .transferOne, .evtIrq, .evtDmaRxDone]) ∧
    (t.divRes = s.divRes ∨ i = .calcDivisors) ∧
    ((t.minHz = s.minHz ∧ t.maxHz = s.maxHz) ∨ i = .attach) ∧
    ((t.life = s.life ∧ t.dmaAv = s.dmaAv ∧ t.scratchValid = s.scratchValid ∧ t.rx.held = s.rx.held ∧
      t.tx.held = s.tx.held) ∨ i ∈ [Instr.attach, .detach]) ∧
    ((t.fsm = s.fsm ∧ t.legMode = s.legMode) ∨ i ∈ [Instr.attach, .transferOne, .evtIrq, .evtDmaRxDone]) ∧
    ((t.rx.segs = s.rx.segs ∧ t.tx.segs = s.tx.segs) ∨ i ∈ [Instr.attach, .detach, .transferOne]) ∧
    ((t.rx.reallocs = s.rx.reallocs ∧ t.tx.reallocs = s.tx.reallocs) ∨ i ∈ [Instr.attach, .transferOne]) ∧
    ((t.rx.desc = s.rx.desc ∧ t.tx.desc = s.tx.desc ∧ t.rx.mapped = s.rx.mapped ∧ t.tx.mapped = s.tx.mapped ∧
      t.cb = s.cb) ∨ i ∈ [Instr.attach, .transferOne, .evtDmaRxDone]) ∧
    ((t.rx.slave = s.rx.slave ∧ t.tx.slave = s.tx.slave ∧ t.rx.moved = s.rx.moved ∧ t.tx.moved = s.tx.moved ∧
      t.ssp.cr0 = s.ssp.cr0 ∧ t.ssp.cpsr = s.ssp.cpsr) ∨ i = .transferOne) ∧
    (t.ssp.cr1 = s.ssp.cr1 ∨ i ∈ [Instr.attach, .prepareHw, .unprepareHw, .transferOne, .evtIrq]) ∧
    (t.ssp.rxq = s.ssp.rxq ∨ i ∈ [Instr.prepareMsg, .transferOne, .evtIrq]) ∧
    ((t.ssp.txq = s.ssp.txq ∧ t.mem = s.mem ∧ t.unsettled = s.unsettled ∧ t.draws = s.draws) ∨
      i ∈ [Instr.transferOne, .evtIrq]) ∧
    (t.ssp.roris = s.ssp.roris ∨ i = .evtIrq) ∧
    (t.pendRx = s.pendRx ∨ i = .evtDmaRxDone) ∧
    (t.expired = s.expired ∨ i = .prepareMsg) ∧
    ((t.finCnt = s.finCnt ∧ t.finLog = s.finLog) ∨ i ∈ [Instr.evtIrq, .evtDmaRxDone])) ∧
  (∀ (a : Action) (s t : State), perform a s = .next t →
    (∀ b, a ≠ .block b) → (∀ e, a ≠ .event e) → (∀ w, a ≠ .host (.write 0x00 w)) →
    t.params = s.params ∧ t.regions = s.regions ∧ t.life = s.life ∧ t.hwp = s.hwp ∧ t.clken = s.clken ∧
    t.fsm = s.fsm ∧ t.legMode = s.legMode ∧ t.ph = s.ph ∧ t.leg = s.leg ∧ t.rxc = s.rxc ∧ t.txc = s.txc ∧
    t.fifoLvl = s.fifoLvl ∧ t.msgSt = s.msgSt ∧ t.lastRes = s.lastRes ∧ t.divRes = s.divRes ∧ t.minHz = s.minHz ∧
    t.maxHz = s.maxHz ∧ t.finCnt = s.finCnt ∧ t.dmaAv = s.dmaAv ∧ t.scratchValid = s.scratchValid ∧ t.cb = s.cb ∧
    (∀ d : Dir, (chan t d).held = (chan s d).held ∧ (chan t d).slave = (chan s d).slave ∧
      (chan t d).segs = (chan s d).segs ∧ (chan t d).mapped = (chan s d).mapped ∧
      (chan t d).reallocs = (chan s d).reallocs ∧ (chan t d).desc = (chan s d).desc) ∧
    t.ssp.cr0 = s.ssp.cr0 ∧ t.ssp.cr1 = s.ssp.cr1 ∧ t.ssp.cpsr = s.ssp.cpsr)
end

