-- ==== Sys2Proof/Laws/State.lean ====
section
/-! SUPPORT. One lemma per field per named update of State, true by unfolding and tagged simp, so that no later proof
unfolds an update: moveTo (R13), raised (R115), returned (R15), finalized (R15), endLeg (R104, R110), setSsp, setChan. -/

namespace Sys2Proof.Machine

@[simp] theorem moveTo_params (p : Phase) (s : State) : (moveTo p s).params = s.params := rfl
@[simp] theorem moveTo_regions (p : Phase) (s : State) : (moveTo p s).regions = s.regions := rfl
@[simp] theorem moveTo_life (p : Phase) (s : State) : (moveTo p s).life = s.life := rfl
@[simp] theorem moveTo_hwp (p : Phase) (s : State) : (moveTo p s).hwp = s.hwp := rfl
@[simp] theorem moveTo_clken (p : Phase) (s : State) : (moveTo p s).clken = s.clken := rfl
@[simp] theorem moveTo_fsm (p : Phase) (s : State) : (moveTo p s).fsm = s.fsm := rfl
@[simp] theorem moveTo_legMode (p : Phase) (s : State) : (moveTo p s).legMode = s.legMode := rfl
@[simp] theorem moveTo_ph (p : Phase) (s : State) : (moveTo p s).ph = p := rfl
@[simp] theorem moveTo_args (p : Phase) (s : State) : (moveTo p s).args = s.args := rfl
@[simp] theorem moveTo_leg (p : Phase) (s : State) : (moveTo p s).leg = s.leg := rfl
@[simp] theorem moveTo_rxc (p : Phase) (s : State) : (moveTo p s).rxc = s.rxc := rfl
@[simp] theorem moveTo_txc (p : Phase) (s : State) : (moveTo p s).txc = s.txc := rfl
@[simp] theorem moveTo_fifoLvl (p : Phase) (s : State) : (moveTo p s).fifoLvl = s.fifoLvl := rfl
@[simp] theorem moveTo_msgSt (p : Phase) (s : State) : (moveTo p s).msgSt = s.msgSt := rfl
@[simp] theorem moveTo_lastRes (p : Phase) (s : State) : (moveTo p s).lastRes = s.lastRes := rfl
@[simp] theorem moveTo_faults (p : Phase) (s : State) : (moveTo p s).faults = s.faults := rfl
@[simp] theorem moveTo_faultCode (p : Phase) (s : State) : (moveTo p s).faultCode = s.faultCode := rfl
@[simp] theorem moveTo_divRes (p : Phase) (s : State) : (moveTo p s).divRes = s.divRes := rfl
@[simp] theorem moveTo_minHz (p : Phase) (s : State) : (moveTo p s).minHz = s.minHz := rfl
@[simp] theorem moveTo_maxHz (p : Phase) (s : State) : (moveTo p s).maxHz = s.maxHz := rfl
@[simp] theorem moveTo_finCnt (p : Phase) (s : State) : (moveTo p s).finCnt = s.finCnt := rfl
@[simp] theorem moveTo_dmaAv (p : Phase) (s : State) : (moveTo p s).dmaAv = s.dmaAv := rfl
@[simp] theorem moveTo_scratchValid (p : Phase) (s : State) : (moveTo p s).scratchValid = s.scratchValid := rfl
@[simp] theorem moveTo_rx (p : Phase) (s : State) : (moveTo p s).rx = s.rx := rfl
@[simp] theorem moveTo_tx (p : Phase) (s : State) : (moveTo p s).tx = s.tx := rfl
@[simp] theorem moveTo_cb (p : Phase) (s : State) : (moveTo p s).cb = s.cb := rfl
@[simp] theorem moveTo_pendRx (p : Phase) (s : State) : (moveTo p s).pendRx = s.pendRx := rfl
@[simp] theorem moveTo_ssp (p : Phase) (s : State) : (moveTo p s).ssp = s.ssp := rfl
@[simp] theorem moveTo_expired (p : Phase) (s : State) : (moveTo p s).expired = s.expired := rfl
@[simp] theorem moveTo_mem (p : Phase) (s : State) : (moveTo p s).mem = s.mem := rfl
@[simp] theorem moveTo_raced (p : Phase) (s : State) : (moveTo p s).raced = s.raced := rfl
@[simp] theorem moveTo_unsettled (p : Phase) (s : State) : (moveTo p s).unsettled = s.unsettled := rfl
@[simp] theorem moveTo_draws (p : Phase) (s : State) : (moveTo p s).draws = s.draws := rfl
@[simp] theorem moveTo_answer (p : Phase) (s : State) : (moveTo p s).answer = s.answer := rfl
@[simp] theorem moveTo_hostData (p : Phase) (s : State) : (moveTo p s).hostData = s.hostData := rfl
@[simp] theorem moveTo_finLog (p : Phase) (s : State) : (moveTo p s).finLog = s.finLog := rfl
@[simp] theorem moveTo_agenda (p : Phase) (s : State) : (moveTo p s).agenda = s.agenda := rfl
@[simp] theorem moveTo_tick (p : Phase) (s : State) : (moveTo p s).tick = s.tick := rfl

@[simp] theorem raised_params (r : Reason) (s : State) : (raised r s).params = s.params := rfl
@[simp] theorem raised_regions (r : Reason) (s : State) : (raised r s).regions = s.regions := rfl
@[simp] theorem raised_life (r : Reason) (s : State) : (raised r s).life = s.life := rfl
@[simp] theorem raised_hwp (r : Reason) (s : State) : (raised r s).hwp = s.hwp := rfl
@[simp] theorem raised_clken (r : Reason) (s : State) : (raised r s).clken = s.clken := rfl
@[simp] theorem raised_fsm (r : Reason) (s : State) : (raised r s).fsm = s.fsm := rfl
@[simp] theorem raised_legMode (r : Reason) (s : State) : (raised r s).legMode = s.legMode := rfl
@[simp] theorem raised_ph (r : Reason) (s : State) : (raised r s).ph = s.ph := rfl
@[simp] theorem raised_args (r : Reason) (s : State) : (raised r s).args = s.args := rfl
@[simp] theorem raised_leg (r : Reason) (s : State) : (raised r s).leg = s.leg := rfl
@[simp] theorem raised_rxc (r : Reason) (s : State) : (raised r s).rxc = s.rxc := rfl
@[simp] theorem raised_txc (r : Reason) (s : State) : (raised r s).txc = s.txc := rfl
@[simp] theorem raised_fifoLvl (r : Reason) (s : State) : (raised r s).fifoLvl = s.fifoLvl := rfl
@[simp] theorem raised_msgSt (r : Reason) (s : State) : (raised r s).msgSt = s.msgSt := rfl
@[simp] theorem raised_lastRes (r : Reason) (s : State) : (raised r s).lastRes = s.lastRes := rfl
@[simp] theorem raised_faults (r : Reason) (s : State) : (raised r s).faults = addReason r s.faults := rfl
@[simp] theorem raised_faultCode (r : Reason) (s : State) : (raised r s).faultCode = if s.faultCode = 0 then reasonCode r else s.faultCode := rfl
@[simp] theorem raised_divRes (r : Reason) (s : State) : (raised r s).divRes = s.divRes := rfl
@[simp] theorem raised_minHz (r : Reason) (s : State) : (raised r s).minHz = s.minHz := rfl
@[simp] theorem raised_maxHz (r : Reason) (s : State) : (raised r s).maxHz = s.maxHz := rfl
@[simp] theorem raised_finCnt (r : Reason) (s : State) : (raised r s).finCnt = s.finCnt := rfl
@[simp] theorem raised_dmaAv (r : Reason) (s : State) : (raised r s).dmaAv = s.dmaAv := rfl
@[simp] theorem raised_scratchValid (r : Reason) (s : State) : (raised r s).scratchValid = s.scratchValid := rfl
@[simp] theorem raised_rx (r : Reason) (s : State) : (raised r s).rx = s.rx := rfl
@[simp] theorem raised_tx (r : Reason) (s : State) : (raised r s).tx = s.tx := rfl
@[simp] theorem raised_cb (r : Reason) (s : State) : (raised r s).cb = s.cb := rfl
@[simp] theorem raised_pendRx (r : Reason) (s : State) : (raised r s).pendRx = s.pendRx := rfl
@[simp] theorem raised_ssp (r : Reason) (s : State) : (raised r s).ssp = s.ssp := rfl
@[simp] theorem raised_expired (r : Reason) (s : State) : (raised r s).expired = s.expired := rfl
@[simp] theorem raised_mem (r : Reason) (s : State) : (raised r s).mem = s.mem := rfl
@[simp] theorem raised_raced (r : Reason) (s : State) : (raised r s).raced = s.raced := rfl
@[simp] theorem raised_unsettled (r : Reason) (s : State) : (raised r s).unsettled = s.unsettled := rfl
@[simp] theorem raised_draws (r : Reason) (s : State) : (raised r s).draws = s.draws := rfl
@[simp] theorem raised_answer (r : Reason) (s : State) : (raised r s).answer = s.answer := rfl
@[simp] theorem raised_hostData (r : Reason) (s : State) : (raised r s).hostData = s.hostData := rfl
@[simp] theorem raised_finLog (r : Reason) (s : State) : (raised r s).finLog = s.finLog := rfl
@[simp] theorem raised_agenda (r : Reason) (s : State) : (raised r s).agenda = s.agenda := rfl
@[simp] theorem raised_tick (r : Reason) (s : State) : (raised r s).tick = s.tick := rfl

@[simp] theorem returned_params (c : Result) (s : State) : (returned c s).params = s.params := rfl
@[simp] theorem returned_regions (c : Result) (s : State) : (returned c s).regions = s.regions := rfl
@[simp] theorem returned_life (c : Result) (s : State) : (returned c s).life = s.life := rfl
@[simp] theorem returned_hwp (c : Result) (s : State) : (returned c s).hwp = s.hwp := rfl
@[simp] theorem returned_clken (c : Result) (s : State) : (returned c s).clken = s.clken := rfl
@[simp] theorem returned_fsm (c : Result) (s : State) : (returned c s).fsm = s.fsm := rfl
@[simp] theorem returned_legMode (c : Result) (s : State) : (returned c s).legMode = s.legMode := rfl
@[simp] theorem returned_ph (c : Result) (s : State) : (returned c s).ph = .ready := rfl
@[simp] theorem returned_args (c : Result) (s : State) : (returned c s).args = s.args := rfl
@[simp] theorem returned_leg (c : Result) (s : State) : (returned c s).leg = s.leg := rfl
@[simp] theorem returned_rxc (c : Result) (s : State) : (returned c s).rxc = s.rxc := rfl
@[simp] theorem returned_txc (c : Result) (s : State) : (returned c s).txc = s.txc := rfl
@[simp] theorem returned_fifoLvl (c : Result) (s : State) : (returned c s).fifoLvl = s.fifoLvl := rfl
@[simp] theorem returned_msgSt (c : Result) (s : State) : (returned c s).msgSt = s.msgSt := rfl
@[simp] theorem returned_lastRes (c : Result) (s : State) : (returned c s).lastRes = c := rfl
@[simp] theorem returned_faults (c : Result) (s : State) : (returned c s).faults = s.faults := rfl
@[simp] theorem returned_faultCode (c : Result) (s : State) : (returned c s).faultCode = s.faultCode := rfl
@[simp] theorem returned_divRes (c : Result) (s : State) : (returned c s).divRes = s.divRes := rfl
@[simp] theorem returned_minHz (c : Result) (s : State) : (returned c s).minHz = s.minHz := rfl
@[simp] theorem returned_maxHz (c : Result) (s : State) : (returned c s).maxHz = s.maxHz := rfl
@[simp] theorem returned_finCnt (c : Result) (s : State) : (returned c s).finCnt = s.finCnt := rfl
@[simp] theorem returned_dmaAv (c : Result) (s : State) : (returned c s).dmaAv = s.dmaAv := rfl
@[simp] theorem returned_scratchValid (c : Result) (s : State) : (returned c s).scratchValid = s.scratchValid := rfl
@[simp] theorem returned_rx (c : Result) (s : State) : (returned c s).rx = s.rx := rfl
@[simp] theorem returned_tx (c : Result) (s : State) : (returned c s).tx = s.tx := rfl
@[simp] theorem returned_cb (c : Result) (s : State) : (returned c s).cb = s.cb := rfl
@[simp] theorem returned_pendRx (c : Result) (s : State) : (returned c s).pendRx = s.pendRx := rfl
@[simp] theorem returned_ssp (c : Result) (s : State) : (returned c s).ssp = s.ssp := rfl
@[simp] theorem returned_expired (c : Result) (s : State) : (returned c s).expired = s.expired := rfl
@[simp] theorem returned_mem (c : Result) (s : State) : (returned c s).mem = s.mem := rfl
@[simp] theorem returned_raced (c : Result) (s : State) : (returned c s).raced = s.raced := rfl
@[simp] theorem returned_unsettled (c : Result) (s : State) : (returned c s).unsettled = s.unsettled := rfl
@[simp] theorem returned_draws (c : Result) (s : State) : (returned c s).draws = s.draws := rfl
@[simp] theorem returned_answer (c : Result) (s : State) : (returned c s).answer = s.answer := rfl
@[simp] theorem returned_hostData (c : Result) (s : State) : (returned c s).hostData = s.hostData := rfl
@[simp] theorem returned_finLog (c : Result) (s : State) : (returned c s).finLog = s.finLog := rfl
@[simp] theorem returned_agenda (c : Result) (s : State) : (returned c s).agenda = s.agenda := rfl
@[simp] theorem returned_tick (c : Result) (s : State) : (returned c s).tick = s.tick := rfl

@[simp] theorem finalized_params (s : State) : (finalized s).params = s.params := rfl
@[simp] theorem finalized_regions (s : State) : (finalized s).regions = s.regions := rfl
@[simp] theorem finalized_life (s : State) : (finalized s).life = s.life := rfl
@[simp] theorem finalized_hwp (s : State) : (finalized s).hwp = s.hwp := rfl
@[simp] theorem finalized_clken (s : State) : (finalized s).clken = s.clken := rfl
@[simp] theorem finalized_fsm (s : State) : (finalized s).fsm = s.fsm := rfl
@[simp] theorem finalized_legMode (s : State) : (finalized s).legMode = s.legMode := rfl
@[simp] theorem finalized_ph (s : State) : (finalized s).ph = s.ph := rfl
@[simp] theorem finalized_args (s : State) : (finalized s).args = s.args := rfl
@[simp] theorem finalized_leg (s : State) : (finalized s).leg = s.leg := rfl
@[simp] theorem finalized_rxc (s : State) : (finalized s).rxc = s.rxc := rfl
@[simp] theorem finalized_txc (s : State) : (finalized s).txc = s.txc := rfl
@[simp] theorem finalized_fifoLvl (s : State) : (finalized s).fifoLvl = s.fifoLvl := rfl
@[simp] theorem finalized_msgSt (s : State) : (finalized s).msgSt = s.msgSt := rfl
@[simp] theorem finalized_lastRes (s : State) : (finalized s).lastRes = s.lastRes := rfl
@[simp] theorem finalized_faults (s : State) : (finalized s).faults = s.faults := rfl
@[simp] theorem finalized_faultCode (s : State) : (finalized s).faultCode = s.faultCode := rfl
@[simp] theorem finalized_divRes (s : State) : (finalized s).divRes = s.divRes := rfl
@[simp] theorem finalized_minHz (s : State) : (finalized s).minHz = s.minHz := rfl
@[simp] theorem finalized_maxHz (s : State) : (finalized s).maxHz = s.maxHz := rfl
@[simp] theorem finalized_finCnt (s : State) : (finalized s).finCnt = s.finCnt + 1 := rfl
@[simp] theorem finalized_dmaAv (s : State) : (finalized s).dmaAv = s.dmaAv := rfl
@[simp] theorem finalized_scratchValid (s : State) : (finalized s).scratchValid = s.scratchValid := rfl
@[simp] theorem finalized_rx (s : State) : (finalized s).rx = s.rx := rfl
@[simp] theorem finalized_tx (s : State) : (finalized s).tx = s.tx := rfl
@[simp] theorem finalized_cb (s : State) : (finalized s).cb = s.cb := rfl
@[simp] theorem finalized_pendRx (s : State) : (finalized s).pendRx = s.pendRx := rfl
@[simp] theorem finalized_ssp (s : State) : (finalized s).ssp = s.ssp := rfl
@[simp] theorem finalized_expired (s : State) : (finalized s).expired = s.expired := rfl
@[simp] theorem finalized_mem (s : State) : (finalized s).mem = s.mem := rfl
@[simp] theorem finalized_raced (s : State) : (finalized s).raced = s.raced := rfl
@[simp] theorem finalized_unsettled (s : State) : (finalized s).unsettled = s.unsettled := rfl
@[simp] theorem finalized_draws (s : State) : (finalized s).draws = s.draws := rfl
@[simp] theorem finalized_answer (s : State) : (finalized s).answer = s.answer := rfl
@[simp] theorem finalized_hostData (s : State) : (finalized s).hostData = s.hostData := rfl
@[simp] theorem finalized_finLog (s : State) : (finalized s).finLog = s.msgSt :: s.finLog := rfl
@[simp] theorem finalized_agenda (s : State) : (finalized s).agenda = s.agenda := rfl
@[simp] theorem finalized_tick (s : State) : (finalized s).tick = s.tick := rfl

@[simp] theorem endLeg_params (s : State) : (endLeg s).params = s.params := rfl
@[simp] theorem endLeg_regions (s : State) : (endLeg s).regions = s.regions := rfl
@[simp] theorem endLeg_life (s : State) : (endLeg s).life = s.life := rfl
@[simp] theorem endLeg_hwp (s : State) : (endLeg s).hwp = s.hwp := rfl
@[simp] theorem endLeg_clken (s : State) : (endLeg s).clken = s.clken := rfl
@[simp] theorem endLeg_fsm (s : State) : (endLeg s).fsm = .idle := rfl
@[simp] theorem endLeg_legMode (s : State) : (endLeg s).legMode = .none := rfl
@[simp] theorem endLeg_ph (s : State) : (endLeg s).ph = .ready := rfl
@[simp] theorem endLeg_args (s : State) : (endLeg s).args = s.args := rfl
@[simp] theorem endLeg_leg (s : State) : (endLeg s).leg = s.leg := rfl
@[simp] theorem endLeg_rxc (s : State) : (endLeg s).rxc = s.rxc := rfl
@[simp] theorem endLeg_txc (s : State) : (endLeg s).txc = s.txc := rfl
@[simp] theorem endLeg_fifoLvl (s : State) : (endLeg s).fifoLvl = s.fifoLvl := rfl
@[simp] theorem endLeg_msgSt (s : State) : (endLeg s).msgSt = s.msgSt := rfl
@[simp] theorem endLeg_lastRes (s : State) : (endLeg s).lastRes = s.lastRes := rfl
@[simp] theorem endLeg_faults (s : State) : (endLeg s).faults = s.faults := rfl
@[simp] theorem endLeg_faultCode (s : State) : (endLeg s).faultCode = s.faultCode := rfl
@[simp] theorem endLeg_divRes (s : State) : (endLeg s).divRes = s.divRes := rfl
@[simp] theorem endLeg_minHz (s : State) : (endLeg s).minHz = s.minHz := rfl
@[simp] theorem endLeg_maxHz (s : State) : (endLeg s).maxHz = s.maxHz := rfl
@[simp] theorem endLeg_finCnt (s : State) : (endLeg s).finCnt = s.finCnt + 1 := rfl
@[simp] theorem endLeg_dmaAv (s : State) : (endLeg s).dmaAv = s.dmaAv := rfl
@[simp] theorem endLeg_scratchValid (s : State) : (endLeg s).scratchValid = s.scratchValid := rfl
@[simp] theorem endLeg_rx (s : State) : (endLeg s).rx = s.rx := rfl
@[simp] theorem endLeg_tx (s : State) : (endLeg s).tx = s.tx := rfl
@[simp] theorem endLeg_cb (s : State) : (endLeg s).cb = s.cb := rfl
@[simp] theorem endLeg_pendRx (s : State) : (endLeg s).pendRx = s.pendRx := rfl
@[simp] theorem endLeg_ssp (s : State) : (endLeg s).ssp = s.ssp := rfl
@[simp] theorem endLeg_expired (s : State) : (endLeg s).expired = s.expired := rfl
@[simp] theorem endLeg_mem (s : State) : (endLeg s).mem = s.mem := rfl
@[simp] theorem endLeg_raced (s : State) : (endLeg s).raced = s.raced := rfl
@[simp] theorem endLeg_unsettled (s : State) : (endLeg s).unsettled = s.unsettled := rfl
@[simp] theorem endLeg_draws (s : State) : (endLeg s).draws = s.draws := rfl
@[simp] theorem endLeg_answer (s : State) : (endLeg s).answer = s.answer := rfl
@[simp] theorem endLeg_hostData (s : State) : (endLeg s).hostData = s.hostData := rfl
@[simp] theorem endLeg_finLog (s : State) : (endLeg s).finLog = s.msgSt :: s.finLog := rfl
@[simp] theorem endLeg_agenda (s : State) : (endLeg s).agenda = s.agenda := rfl
@[simp] theorem endLeg_tick (s : State) : (endLeg s).tick = s.tick := rfl

@[simp] theorem setSsp_params (s : State) (p : Ssp) : (setSsp s p).params = s.params := rfl
@[simp] theorem setSsp_regions (s : State) (p : Ssp) : (setSsp s p).regions = s.regions := rfl
@[simp] theorem setSsp_life (s : State) (p : Ssp) : (setSsp s p).life = s.life := rfl
@[simp] theorem setSsp_hwp (s : State) (p : Ssp) : (setSsp s p).hwp = s.hwp := rfl
@[simp] theorem setSsp_clken (s : State) (p : Ssp) : (setSsp s p).clken = s.clken := rfl
@[simp] theorem setSsp_fsm (s : State) (p : Ssp) : (setSsp s p).fsm = s.fsm := rfl
@[simp] theorem setSsp_legMode (s : State) (p : Ssp) : (setSsp s p).legMode = s.legMode := rfl
@[simp] theorem setSsp_ph (s : State) (p : Ssp) : (setSsp s p).ph = s.ph := rfl
@[simp] theorem setSsp_args (s : State) (p : Ssp) : (setSsp s p).args = s.args := rfl
@[simp] theorem setSsp_leg (s : State) (p : Ssp) : (setSsp s p).leg = s.leg := rfl
@[simp] theorem setSsp_rxc (s : State) (p : Ssp) : (setSsp s p).rxc = s.rxc := rfl
@[simp] theorem setSsp_txc (s : State) (p : Ssp) : (setSsp s p).txc = s.txc := rfl
@[simp] theorem setSsp_fifoLvl (s : State) (p : Ssp) : (setSsp s p).fifoLvl = s.fifoLvl := rfl
@[simp] theorem setSsp_msgSt (s : State) (p : Ssp) : (setSsp s p).msgSt = s.msgSt := rfl
@[simp] theorem setSsp_lastRes (s : State) (p : Ssp) : (setSsp s p).lastRes = s.lastRes := rfl
@[simp] theorem setSsp_faults (s : State) (p : Ssp) : (setSsp s p).faults = s.faults := rfl
@[simp] theorem setSsp_faultCode (s : State) (p : Ssp) : (setSsp s p).faultCode = s.faultCode := rfl
@[simp] theorem setSsp_divRes (s : State) (p : Ssp) : (setSsp s p).divRes = s.divRes := rfl
@[simp] theorem setSsp_minHz (s : State) (p : Ssp) : (setSsp s p).minHz = s.minHz := rfl
@[simp] theorem setSsp_maxHz (s : State) (p : Ssp) : (setSsp s p).maxHz = s.maxHz := rfl
@[simp] theorem setSsp_finCnt (s : State) (p : Ssp) : (setSsp s p).finCnt = s.finCnt := rfl
@[simp] theorem setSsp_dmaAv (s : State) (p : Ssp) : (setSsp s p).dmaAv = s.dmaAv := rfl
@[simp] theorem setSsp_scratchValid (s : State) (p : Ssp) : (setSsp s p).scratchValid = s.scratchValid := rfl
@[simp] theorem setSsp_rx (s : State) (p : Ssp) : (setSsp s p).rx = s.rx := rfl
@[simp] theorem setSsp_tx (s : State) (p : Ssp) : (setSsp s p).tx = s.tx := rfl
@[simp] theorem setSsp_cb (s : State) (p : Ssp) : (setSsp s p).cb = s.cb := rfl
@[simp] theorem setSsp_pendRx (s : State) (p : Ssp) : (setSsp s p).pendRx = s.pendRx := rfl
@[simp] theorem setSsp_ssp (s : State) (p : Ssp) : (setSsp s p).ssp = p := rfl
@[simp] theorem setSsp_expired (s : State) (p : Ssp) : (setSsp s p).expired = s.expired := rfl
@[simp] theorem setSsp_mem (s : State) (p : Ssp) : (setSsp s p).mem = s.mem := rfl
@[simp] theorem setSsp_raced (s : State) (p : Ssp) : (setSsp s p).raced = s.raced := rfl
@[simp] theorem setSsp_unsettled (s : State) (p : Ssp) : (setSsp s p).unsettled = s.unsettled := rfl
@[simp] theorem setSsp_draws (s : State) (p : Ssp) : (setSsp s p).draws = s.draws := rfl
@[simp] theorem setSsp_answer (s : State) (p : Ssp) : (setSsp s p).answer = s.answer := rfl
@[simp] theorem setSsp_hostData (s : State) (p : Ssp) : (setSsp s p).hostData = s.hostData := rfl
@[simp] theorem setSsp_finLog (s : State) (p : Ssp) : (setSsp s p).finLog = s.finLog := rfl
@[simp] theorem setSsp_agenda (s : State) (p : Ssp) : (setSsp s p).agenda = s.agenda := rfl
@[simp] theorem setSsp_tick (s : State) (p : Ssp) : (setSsp s p).tick = s.tick := rfl

@[simp] theorem setChan_params (s : State) (d : Dir) (c : Chan) : (setChan s d c).params = s.params := by cases d <;> rfl
@[simp] theorem setChan_regions (s : State) (d : Dir) (c : Chan) : (setChan s d c).regions = s.regions := by cases d <;> rfl
@[simp] theorem setChan_life (s : State) (d : Dir) (c : Chan) : (setChan s d c).life = s.life := by cases d <;> rfl
@[simp] theorem setChan_hwp (s : State) (d : Dir) (c : Chan) : (setChan s d c).hwp = s.hwp := by cases d <;> rfl
@[simp] theorem setChan_clken (s : State) (d : Dir) (c : Chan) : (setChan s d c).clken = s.clken := by cases d <;> rfl
@[simp] theorem setChan_fsm (s : State) (d : Dir) (c : Chan) : (setChan s d c).fsm = s.fsm := by cases d <;> rfl
@[simp] theorem setChan_legMode (s : State) (d : Dir) (c : Chan) : (setChan s d c).legMode = s.legMode := by cases d <;> rfl
@[simp] theorem setChan_ph (s : State) (d : Dir) (c : Chan) : (setChan s d c).ph = s.ph := by cases d <;> rfl
@[simp] theorem setChan_args (s : State) (d : Dir) (c : Chan) : (setChan s d c).args = s.args := by cases d <;> rfl
@[simp] theorem setChan_leg (s : State) (d : Dir) (c : Chan) : (setChan s d c).leg = s.leg := by cases d <;> rfl
@[simp] theorem setChan_rxc (s : State) (d : Dir) (c : Chan) : (setChan s d c).rxc = s.rxc := by cases d <;> rfl
@[simp] theorem setChan_txc (s : State) (d : Dir) (c : Chan) : (setChan s d c).txc = s.txc := by cases d <;> rfl
@[simp] theorem setChan_fifoLvl (s : State) (d : Dir) (c : Chan) : (setChan s d c).fifoLvl = s.fifoLvl := by cases d <;> rfl
@[simp] theorem setChan_msgSt (s : State) (d : Dir) (c : Chan) : (setChan s d c).msgSt = s.msgSt := by cases d <;> rfl
@[simp] theorem setChan_lastRes (s : State) (d : Dir) (c : Chan) : (setChan s d c).lastRes = s.lastRes := by cases d <;> rfl
@[simp] theorem setChan_faults (s : State) (d : Dir) (c : Chan) : (setChan s d c).faults = s.faults := by cases d <;> rfl
@[simp] theorem setChan_faultCode (s : State) (d : Dir) (c : Chan) : (setChan s d c).faultCode = s.faultCode := by cases d <;> rfl
@[simp] theorem setChan_divRes (s : State) (d : Dir) (c : Chan) : (setChan s d c).divRes = s.divRes := by cases d <;> rfl
@[simp] theorem setChan_minHz (s : State) (d : Dir) (c : Chan) : (setChan s d c).minHz = s.minHz := by cases d <;> rfl
@[simp] theorem setChan_maxHz (s : State) (d : Dir) (c : Chan) : (setChan s d c).maxHz = s.maxHz := by cases d <;> rfl
@[simp] theorem setChan_finCnt (s : State) (d : Dir) (c : Chan) : (setChan s d c).finCnt = s.finCnt := by cases d <;> rfl
@[simp] theorem setChan_dmaAv (s : State) (d : Dir) (c : Chan) : (setChan s d c).dmaAv = s.dmaAv := by cases d <;> rfl
@[simp] theorem setChan_scratchValid (s : State) (d : Dir) (c : Chan) : (setChan s d c).scratchValid = s.scratchValid := by cases d <;> rfl
@[simp] theorem setChan_cb (s : State) (d : Dir) (c : Chan) : (setChan s d c).cb = s.cb := by cases d <;> rfl
@[simp] theorem setChan_pendRx (s : State) (d : Dir) (c : Chan) : (setChan s d c).pendRx = s.pendRx := by cases d <;> rfl
@[simp] theorem setChan_ssp (s : State) (d : Dir) (c : Chan) : (setChan s d c).ssp = s.ssp := by cases d <;> rfl
@[simp] theorem setChan_expired (s : State) (d : Dir) (c : Chan) : (setChan s d c).expired = s.expired := by cases d <;> rfl
@[simp] theorem setChan_mem (s : State) (d : Dir) (c : Chan) : (setChan s d c).mem = s.mem := by cases d <;> rfl
@[simp] theorem setChan_raced (s : State) (d : Dir) (c : Chan) : (setChan s d c).raced = s.raced := by cases d <;> rfl
@[simp] theorem setChan_unsettled (s : State) (d : Dir) (c : Chan) : (setChan s d c).unsettled = s.unsettled := by cases d <;> rfl
@[simp] theorem setChan_draws (s : State) (d : Dir) (c : Chan) : (setChan s d c).draws = s.draws := by cases d <;> rfl
@[simp] theorem setChan_answer (s : State) (d : Dir) (c : Chan) : (setChan s d c).answer = s.answer := by cases d <;> rfl
@[simp] theorem setChan_hostData (s : State) (d : Dir) (c : Chan) : (setChan s d c).hostData = s.hostData := by cases d <;> rfl
@[simp] theorem setChan_finLog (s : State) (d : Dir) (c : Chan) : (setChan s d c).finLog = s.finLog := by cases d <;> rfl
@[simp] theorem setChan_agenda (s : State) (d : Dir) (c : Chan) : (setChan s d c).agenda = s.agenda := by cases d <;> rfl
@[simp] theorem setChan_tick (s : State) (d : Dir) (c : Chan) : (setChan s d c).tick = s.tick := by cases d <;> rfl

@[simp] theorem setChan_rx_rx (s : State) (c : Chan) : (setChan s .rx c).rx = c := rfl
@[simp] theorem setChan_rx_tx (s : State) (c : Chan) : (setChan s .rx c).tx = s.tx := rfl
@[simp] theorem setChan_tx_tx (s : State) (c : Chan) : (setChan s .tx c).tx = c := rfl
@[simp] theorem setChan_tx_rx (s : State) (c : Chan) : (setChan s .tx c).rx = s.rx := rfl
@[simp] theorem chan_setChan (s : State) (d : Dir) (c : Chan) : chan (setChan s d c) d = c := by cases d <;> rfl
@[simp] theorem chan_rx (s : State) : chan s .rx = s.rx := rfl
@[simp] theorem chan_tx (s : State) : chan s .tx = s.tx := rfl

end Sys2Proof.Machine
end

