-- ==== Sys2Proof/Laws/Memory.lean ====
section
/-! SUPPORT. The laws of system memory: a read after a write, the canonical form of the byte list and of the raced
addresses, and what the state-level accesses change. -/

namespace Sys2Proof.Machine

/-! ### The byte list -/

theorem above_trans {a b : Nat} (h : a ≤ b) : ∀ {m : List Host.Cell}, Memory.above b m = true → Memory.above a m = true
  | [], _ => rfl
  | (c, w) :: m, hm => by
    simp only [Memory.above, Bool.and_eq_true, decide_eq_true_eq] at hm ⊢
    exact ⟨by omega, above_trans h hm.2⟩

theorem above_cons {a b : Nat} {v : Byte} {m : List Host.Cell} (h : a < b) (hm : Memory.above a m = true) :
    Memory.above a (Memory.cons b v m) = true := by
  unfold Memory.cons
  split
  · exact hm
  · simp [Memory.above, h, hm]

theorem above_write {a b : Nat} {v : Byte} (h : a < b) :
    ∀ {m : List Host.Cell}, Memory.above a m = true → Memory.above a (Memory.write m b v) = true
  | [], hm => above_cons h hm
  | (c, w) :: m, hm => by
    have hm' := hm
    simp only [Memory.above, Bool.and_eq_true, decide_eq_true_eq] at hm
    unfold Memory.write
    split
    · exact above_cons h hm'
    · split
      · exact above_cons h hm.2
      · simp [Memory.above, hm.1, above_write h hm.2]

theorem wf_cons {a : Nat} {v : Byte} {m : List Host.Cell} (ha : Memory.above a m = true) (hm : Memory.wf m = true) :
    Memory.wf (Memory.cons a v m) = true := by
  unfold Memory.cons
  split
  · exact hm
  · simp_all [Memory.wf]

/-- A write keeps the canonical form. -/
theorem wf_write (a : Nat) (v : Byte) : ∀ {m : List Host.Cell}, Memory.wf m = true → Memory.wf (Memory.write m a v) = true
  | [], hm => wf_cons rfl hm
  | (b, w) :: m, hm => by
    have hm' := hm
    simp only [Memory.wf, Bool.and_eq_true] at hm
    obtain ⟨⟨hw, hb⟩, hwf⟩ := hm
    unfold Memory.write
    split
    · exact wf_cons (by simp [Memory.above, *, above_trans (Nat.le_of_lt ‹_›) hb]) hm'
    · split
      · subst_vars; exact wf_cons hb hwf
      · simp [Memory.wf, hw, above_write (show b < a by omega) hb, wf_write a v hwf]

/-- An address below every listed one is not listed. -/
theorem read_above {a : Nat} : ∀ {m : List Host.Cell}, Memory.above a m = true → Memory.read m a = Memory.unlisted
  | [], _ => rfl
  | (b, w) :: m, hm => by
    simp only [Memory.above, Bool.and_eq_true, decide_eq_true_eq] at hm
    simp [Memory.read, show a ≠ b by omega, read_above hm.2]

theorem read_cons {a b : Nat} {v : Byte} {m : List Host.Cell} (hb : Memory.above b m = true) :
    Memory.read (Memory.cons b v m) a = if a = b then v else Memory.read m a := by
  unfold Memory.cons
  split
  · split
    · subst_vars; exact read_above hb
    · rfl
  · simp [Memory.read]

/-- A read after a write: the value written at its address, the old value at every other. -/
theorem read_write (a b : Nat) (v : Byte) : ∀ {m : List Host.Cell}, Memory.wf m = true →
    Memory.read (Memory.write m b v) a = if a = b then v else Memory.read m a
  | [], _ => read_cons rfl
  | (c, w) :: m, hm => by
    have hm' := hm
    simp only [Memory.wf, Bool.and_eq_true] at hm
    obtain ⟨⟨hw, hc⟩, hwf⟩ := hm
    unfold Memory.write
    split
    · exact read_cons (by simp [Memory.above, *, above_trans (Nat.le_of_lt ‹_›) hc])
    · split
      · rename_i hbc
        rw [hbc, read_cons hc]
        by_cases h : a = c <;> simp [Memory.read, h]
      · have ih := read_write a b v hwf
        by_cases h : a = c
        · simp [Memory.read, h, show c ≠ b by omega]
        · simp [Memory.read, h, ih]

/-! ### The raced addresses -/

theorem mem_addrInsert (a b : Nat) : ∀ l : List Nat, b ∈ addrInsert a l ↔ b = a ∨ b ∈ l
  | [] => by simp [addrInsert]
  | c :: l => by
    unfold addrInsert
    split
    · simp
    · split
      · subst_vars; simp
      · simp [mem_addrInsert a b l]; tauto

theorem mem_addrErase (a b : Nat) : ∀ l : List Nat, b ∈ addrErase a l ↔ b ≠ a ∧ b ∈ l
  | [] => by simp [addrErase]
  | c :: l => by
    unfold addrErase
    split
    · rename_i hac
      rw [mem_addrErase a b l, hac]
      simp; tauto
    · simp [mem_addrErase a b l]; grind

/-- Adding an address keeps the raced addresses rising. -/
theorem rising_addrInsert (a : Nat) : ∀ {l : List Nat}, risingAddrs l → risingAddrs (addrInsert a l)
  | [], _ => by simp [addrInsert, risingAddrs]
  | c :: l, h => by
    have h' := h
    simp only [risingAddrs, List.pairwise_cons] at h
    unfold addrInsert
    split
    · simp only [risingAddrs, List.pairwise_cons]
      refine ⟨?_, h⟩
      intro x hx
      rcases List.mem_cons.1 hx with rfl | hx
      · assumption
      · exact Nat.lt_trans ‹_› (h.1 x hx)
    · split
      · exact h'
      · simp only [risingAddrs, List.pairwise_cons]
        refine ⟨?_, rising_addrInsert a h.2⟩
        intro x hx
        rcases (mem_addrInsert a x l).1 hx with rfl | hx
        · omega
        · exact h.1 x hx

/-- Taking an address out keeps the raced addresses rising. -/
theorem rising_addrErase (a : Nat) : ∀ {l : List Nat}, risingAddrs l → risingAddrs (addrErase a l)
  | [], _ => by simp [addrErase, risingAddrs]
  | c :: l, h => by
    simp only [risingAddrs, List.pairwise_cons] at h
    unfold addrErase
    split
    · exact rising_addrErase a h.2
    · simp only [risingAddrs, List.pairwise_cons]
      exact ⟨fun x hx => h.1 x ((mem_addrErase a x l).1 hx).2, rising_addrErase a h.2⟩

/-! ### Accesses of the state -/

/-- A read of a byte changes the draw counter alone. -/
theorem readByte_some {s t : State} {a : Nat} {v : Byte} (h : readByte s a = some (v, t)) :
    admitted s a = true ∧ ∃ n, t = { s with draws := n } := by
  unfold readByte at h
  split at h
  · refine ⟨‹_›, ?_⟩
    split at h
    · cases h; exact ⟨_, rfl⟩
    · cases h; exact ⟨s.draws, rfl⟩
  · cases h

/-- A read of a unit changes the draw counter alone. -/
theorem memRead_some {s t : State} {a n : Nat} {v : FifoUnit} (h : memRead s a n = some (v, t)) :
    ∃ k, t = { s with draws := k } := by
  unfold memRead at h
  split at h
  · cases h
  · obtain ⟨-, k, rfl⟩ := readByte_some ‹_›
    split at h
    · cases h; exact ⟨k, rfl⟩
    · split at h
      · cases h
      · obtain ⟨-, k', rfl⟩ := readByte_some ‹_›
        cases h; exact ⟨k', rfl⟩

/-- A write of a byte by BLOCK or DMA changes memory and the unsettled addresses alone. -/
theorem writeByte_some {s t : State} {a : Nat} {v : Byte} (h : writeByte s a v = some t) :
    admitted s a = true ∧ t = { s with mem := Memory.write s.mem a v, unsettled := addrErase a s.unsettled } := by
  unfold writeByte at h
  split at h
  · cases h; exact ⟨‹_›, rfl⟩
  · cases h

/-- A write of a byte by BLOCK or DMA keeps the canonical forms. -/
theorem MemInv.write {s : State} (h : MemInv s) (a : Nat) (v : Byte) :
    MemInv { s with mem := Memory.write s.mem a v, unsettled := addrErase a s.unsettled } :=
  ⟨wf_write _ _ h.1, h.2.1, rising_addrErase _ h.2.2.1, fun b hb => h.2.2.2 b ((mem_addrErase _ _ _).1 hb).2⟩

/-- A write of a unit changes memory and the unsettled addresses alone, marks none, keeps the canonical forms, and leaves
every byte outside the unit as it was. -/
theorem memWrite_some {s t : State} {a n : Nat} {v : FifoUnit} (h : memWrite s a n v = some t) :
    ∃ m r, t = { s with mem := m, unsettled := r } ∧ (MemInv s → MemInv t) ∧ (∀ b ∈ r, b ∈ s.unsettled) ∧
      (Memory.wf s.mem = true → ∀ b, (b < a ∨ a + (if n = 1 then 1 else 2) ≤ b) →
        Memory.read m b = Memory.read s.mem b) := by
  unfold memWrite at h
  split at h
  · cases h
  · obtain ⟨-, rfl⟩ := writeByte_some ‹_›
    split at h
    · cases h
      refine ⟨_, _, rfl, fun hi => hi.write _ _, fun b hb => ((mem_addrErase _ _ _).1 hb).2, fun hw b hb => ?_⟩
      rw [read_write _ _ _ hw, if_neg (by grind)]
    · obtain ⟨-, rfl⟩ := writeByte_some h
      refine ⟨_, _, rfl, fun hi => (hi.write _ _).write _ _,
        fun b hb => ((mem_addrErase _ _ _).1 ((mem_addrErase _ _ _).1 hb).2).2, fun hw b hb => ?_⟩
      rw [read_write _ _ _ (wf_write _ _ hw), if_neg (by grind), read_write _ _ _ hw, if_neg (by grind)]

end Sys2Proof.Machine
end

