-- ==== Sys2Proof/Laws/Ops.lean ====
section
/-! SUPPORT. What each shared operation can do, said once: the SSP accesses, pop and push, a meaning offered where BLOCK
has no step, and the steps of the environment agents. -/

namespace Sys2Proof.Machine

/-! ### Outcomes -/

@[simp] theorem goto_eq (p : Phase) (s : State) : goto p s = .next (moveTo p s) := rfl
@[simp] theorem ret_eq (c : Result) (s : State) : ret c s = .next (returned c s) := rfl
@[simp] theorem raiseFault_eq (r : Reason) (s : State) : raiseFault r s = .next (raised r s) := rfl
@[simp] theorem bindOut_ok {α : Type} (a : α) (k : α → Out) : bindOut (.ok a) k = k a := rfl
@[simp] theorem bindOut_error {α : Type} (o : Out) (k : α → Out) : bindOut (.error o) k = o := rfl

/-- BLOCK is stopped exactly when a fault has been raised. -/
theorem stopped_iff {s : State} : stopped s = true ↔ s.faults ≠ [] := by
  unfold stopped; cases s.faults <;> simp

@[simp] theorem stopped_nil {s : State} (h : s.faults = []) : stopped s = false := by simp [stopped, h]

/-- A stopped BLOCK has no step, whatever instruction is offered (R115). -/
theorem exec_stopped (i : Instr) {s : State} (h : s.faults ≠ []) : exec i s = .fault .blockStopped := by
  have h' : stopped s = true := stopped_iff.2 h
  cases i <;>
    simp [exec, execAttach, execDetach, execPrepareHw, execUnprepareHw, execPrepareMsg, execTransferOne,
      execCalcDivisors, execEvtIrq, execEvtDmaRxDone, noStep, h']

/-- While an instruction is in execution no other one starts (R120). -/
theorem exec_busy (i : Instr) {j : Instr} {s : State} (h : s.faults = []) (hj : phaseOp s.ph = some j) (hij : i ≠ j) :
    exec i s = .fault .blockBusy := by
  have h' := stopped_nil h
  cases hp : s.ph <;> simp_all [phaseOp] <;> subst hj <;> cases i <;>
    simp_all [exec, execAttach, execDetach, execPrepareHw, execUnprepareHw, execPrepareMsg, execTransferOne,
      execCalcDivisors, execEvtIrq, execEvtDmaRxDone, noStep]

/-- Raising a fault adds its reason to the set and takes none out (R29). -/
theorem mem_addReason (r q : Reason) : ∀ l : List Reason, q ∈ addReason r l ↔ q = r ∨ q ∈ l
  | [] => by simp [addReason]
  | p :: l => by
    unfold addReason
    split
    · simp
    · split
      · rename_i h; subst h; simp
      · simp [mem_addReason r q l]; tauto

@[simp] theorem addReason_ne_nil (r : Reason) (l : List Reason) : addReason r l ≠ [] := by
  intro h; simpa [h] using (mem_addReason r r l)

/-! ### SSP accesses -/

/-- The register map is one to one: every register is at its own offset, and no other offset has one (R46(b)). -/
theorem sspRegAt_eq_some {off : Nat} {r : SspReg} : sspRegAt off = some r ↔ off = sspOffset r := by
  constructor
  · intro h
    unfold sspRegAt at h
    split at h <;> cases h <;> rfl
  · rintro rfl
    cases r <;> rfl

@[simp] theorem ioRead32_cr1 (s : State) : ioRead32 (sspOffset .cr1) s = .ok (s.ssp.cr1, s) := rfl
@[simp] theorem ioRead32_sr (s : State) : ioRead32 (sspOffset .sr) s = .ok (srValue s.ssp, s) := rfl
@[simp] theorem ioRead32_iir (s : State) : ioRead32 (sspOffset .iir) s = .ok (iirValue s.params s.ssp, s) := rfl
@[simp] theorem ioWrite32_cr0 (v : Word) (s : State) : ioWrite32 (sspOffset .cr0) v s = .ok (setSsp s { s.ssp with cr0 := v }) := rfl
@[simp] theorem ioWrite32_cr1 (v : Word) (s : State) : ioWrite32 (sspOffset .cr1) v s = .ok (setSsp s { s.ssp with cr1 := v }) := rfl
@[simp] theorem ioWrite32_cpsr (v : Word) (s : State) : ioWrite32 (sspOffset .cpsr) v s = .ok (setSsp s { s.ssp with cpsr := v }) := rfl
@[simp] theorem ioWrite32_icr (v : Word) (s : State) : ioWrite32 (sspOffset .iir) v s = .ok (setSsp s { s.ssp with roris := false }) := rfl

/-- A DR read of an empty RXQ faults, else it pops the head (R38). -/
theorem ioRead32_dr (s : State) :
    (s.ssp.rxq = [] ∧ ioRead32 (sspOffset .dr) s = .error (raiseFault .rxFifoUnderflow s)) ∨
      ∃ u q, s.ssp.rxq = u :: q ∧ ioRead32 (sspOffset .dr) s = .ok (u.setWidth 32, setSsp s { s.ssp with rxq := q }) := by
  show _ ∧ readSsp .dr s = _ ∨ ∃ u q, _ ∧ readSsp .dr s = _
  unfold readSsp
  cases h : s.ssp.rxq <;> simp

/-- A DR write to a full TXQ faults, else it pushes v[15:0] (R38). -/
theorem ioWrite32_dr (v : Word) (s : State) :
    (fifoDepth ≤ s.ssp.txq.length ∧ ioWrite32 (sspOffset .dr) v s = .error (raiseFault .txFifoOverflow s)) ∨
      (s.ssp.txq.length < fifoDepth ∧
        ioWrite32 (sspOffset .dr) v s = .ok (setSsp s { s.ssp with txq := s.ssp.txq ++ [v.setWidth 16] })) := by
  show _ ∧ writeSsp .dr v s = _ ∨ _ ∧ writeSsp .dr v s = _
  unfold writeSsp
  by_cases h : s.ssp.txq.length < fifoDepth
  · exact .inr ⟨h, by simp [h]⟩
  · exact .inl ⟨by omega, by simp [h]⟩

/-- RNE is bit 2 of SR (R39). -/
theorem srValue_rne (p : Ssp) : (srValue p).getLsbD 2 = rne p := by
  unfold srValue bit
  cases rne p <;> cases (p.txq.length == 0) <;> cases decide (p.txq.length < fifoDepth) <;>
    cases (p.rxq.length == fifoDepth) <;> cases decide (0 < p.txq.length) <;> rfl

@[simp] theorem srValue_getElem (p : Ssp) : (srValue p)[2] = rne p := srValue_rne p

/-- Only a unit in RXQ sets RNE (R39). -/
theorem rne_iff {p : Ssp} : rne p = true ↔ p.rxq ≠ [] := by unfold rne; cases p.rxq <;> simp

/-- IIR bit 2 is RORIS_RAW with its enable (R41). -/
theorem iirValue_roris (q : Params) (p : Ssp) :
    (iirValue q p).getLsbD 2 = (p.roris && p.cr1.getLsbD 2) := by
  unfold iirValue bit
  cases ris q p && p.cr1.getLsbD 0 <;> cases tis q p && p.cr1.getLsbD 1 <;> cases p.roris && p.cr1.getLsbD 2 <;> rfl

@[simp] theorem iirValue_getElem (q : Params) (p : Ssp) : (iirValue q p)[2] = (p.roris && p.cr1.getLsbD 2) :=
  iirValue_roris q p

/-! ### Pop and push -/

/-- What a pop that succeeds does (R92). -/
theorem pop_ok {s t : State} (h : pop s = .ok t) :
    ∃ u q m r, s.ssp.rxq = u :: q ∧ 0 < s.fifoLvl ∧ s.rxc.toNat + legUnit s.leg ≤ s.leg.len.toNat ∧
      t = { s with ssp := { s.ssp with rxq := q }, mem := m, unsettled := r,
                   rxc := advance s.rxc s.leg, fifoLvl := s.fifoLvl - 1 } ∧
      (MemInv s → MemInv t) ∧
      (∀ b ∈ r, b ∈ s.unsettled) ∧ (s.leg.rxp = false → m = s.mem ∧ r = s.unsettled) ∧
      (Memory.wf s.mem = true → ∀ b,
        (b < s.leg.rx.toNat + s.rxc.toNat ∨ s.leg.rx.toNat + s.rxc.toNat + legUnit s.leg ≤ b) →
        Memory.read m b = Memory.read s.mem b) := by
  have hu : (if legUnit s.leg = 1 then 1 else 2) = legUnit s.leg := by unfold legUnit unitOf; split <;> simp
  unfold pop at h
  split at h
  · cases h
  · split at h
    · cases h
    · rcases ioRead32_dr s with ⟨-, hd⟩ | ⟨u, q, hq, hd⟩
      · rw [hd] at h; cases h
      · rw [hd] at h
        dsimp only at h
        split at h
        · cases h
        · rename_i s2 hs
          split at hs
          · obtain ⟨m, r, rfl, hm, hr, hb⟩ := memWrite_some hs
            cases h
            refine ⟨u, q, m, r, hq, by omega, by omega, rfl, hm, hr, ?_, ?_⟩
            · intro hr; simp_all
            · intro hw b hb'
              exact hb hw b (by rw [setSsp_leg, setSsp_rxc, hu]; exact hb')
          · cases hs; cases h
            exact ⟨u, q, s.mem, s.unsettled, hq, by omega, by omega, rfl, id, fun _ => id, fun _ => ⟨rfl, rfl⟩, fun _ _ _ => rfl⟩

/-- Why a pop does not succeed, in the order of R116. -/
theorem pop_error {s : State} {o : Out} (h : pop s = .error o) :
    (s.fifoLvl = 0 ∧ o = raiseFault .shadowUnderflow s) ∨
      (s.leg.len.toNat < s.rxc.toNat + legUnit s.leg ∧ o = raiseFault .rxCursorOverflow s) ∨
      (s.ssp.rxq = [] ∧ o = raiseFault .rxFifoUnderflow s) ∨ o = .fault .bufferRefused := by
  unfold pop at h
  split at h
  · cases h; exact .inl ⟨‹_›, rfl⟩
  · split at h
    · cases h; exact .inr (.inl ⟨‹_›, rfl⟩)
    · rcases ioRead32_dr s with ⟨hq, hd⟩ | ⟨u, q, hq, hd⟩
      · rw [hd] at h; cases h; exact .inr (.inr (.inl ⟨hq, rfl⟩))
      · rw [hd] at h
        dsimp only at h
        split at h
        · cases h; exact .inr (.inr (.inr rfl))
        · cases h

/-- What a push that succeeds does (R93). -/
theorem push_ok {s t : State} (h : push s = .ok t) :
    ∃ v n, s.ssp.txq.length < fifoDepth ∧
      t = { s with ssp := { s.ssp with txq := s.ssp.txq ++ [v] }, draws := n,
                   txc := advance s.txc s.leg, fifoLvl := s.fifoLvl + 1 } := by
  unfold push at h
  split at h
  · cases h
  · rename_i v s1 hs
    have hs1 : ∃ n, s1 = { s with draws := n } := by
      split at hs
      · exact memRead_some hs
      · cases hs; exact ⟨s.draws, rfl⟩
    obtain ⟨n, rfl⟩ := hs1
    rcases ioWrite32_dr (v.setWidth 32) { s with draws := n } with ⟨-, hd⟩ | ⟨hl, hd⟩
    · rw [hd] at h; cases h
    · rw [hd] at h; cases h; exact ⟨_, n, hl, rfl⟩

/-- Why a push does not succeed. -/
theorem push_error {s : State} {o : Out} (h : push s = .error o) :
    (fifoDepth ≤ s.ssp.txq.length ∧ ∃ n, o = raiseFault .txFifoOverflow { s with draws := n }) ∨
      o = .fault .bufferRefused := by
  unfold push at h
  split at h
  · cases h; exact .inr rfl
  · rename_i v s1 hs
    have hs1 : ∃ n, s1 = { s with draws := n } := by
      split at hs
      · exact memRead_some hs
      · cases hs; exact ⟨s.draws, rfl⟩
    obtain ⟨n, rfl⟩ := hs1
    rcases ioWrite32_dr (v.setWidth 32) { s with draws := n } with ⟨hl, hd⟩ | ⟨hl, hd⟩
    · rw [hd] at h; cases h; exact .inl ⟨hl, n, rfl⟩
    · rw [hd] at h; cases h

/-! ### The environment agents -/

/-- What a shift can do (R123). -/
theorem sspShift_cases (v : FifoUnit) (p : Ssp) :
    sspShift v p = p ∨ ∃ u q, p.txq = u :: q ∧ p.cr1.getLsbD 4 = true ∧
      ((p.rxq.length < fifoDepth ∧ sspShift v p = { p with txq := q, rxq := p.rxq ++ [cutReceived p v] }) ∨
       (fifoDepth ≤ p.rxq.length ∧ sspShift v p = { p with txq := q, roris := true })) := by
  unfold sspShift
  cases hq : p.txq with
  | nil => exact .inl rfl
  | cons u q =>
    by_cases h4 : p.cr1.getLsbD 4 = true
    · by_cases hl : p.rxq.length < fifoDepth
      · exact .inr ⟨u, q, rfl, h4, .inl ⟨hl, by simp [h4, hl]⟩⟩
      · exact .inr ⟨u, q, rfl, h4, .inr ⟨by omega, by simp [h4, hl]⟩⟩
    · exact .inl (if_neg h4)

/-- What a DMA_TX step can do (R124). -/
theorem dmaTxStep_cases (s : State) :
    dmaTxStep s = s ∨
      (s.tx.desc = .issued ∧ s.tx.moved < segTotal s.tx.segs ∧ s.ssp.txq.length < fifoDepth ∧
        ∃ v n, dmaTxStep s = { s with ssp := { s.ssp with txq := s.ssp.txq ++ [v] }, draws := n,
                                      tx := { s.tx with moved := s.tx.moved + legUnit s.leg } }) := by
  unfold dmaTxStep
  split
  · rename_i h
    split
    · exact .inl rfl
    · split
      · exact .inl rfl
      · rename_i g off _ v t ht
        have ht' : ∃ n, t = { s with draws := n } := by
          split at ht
          · exact memRead_some ht
          · cases ht; exact ⟨s.draws, rfl⟩
        obtain ⟨n, rfl⟩ := ht'
        exact .inr ⟨h.1, h.2.1, h.2.2, v, n, rfl⟩
  · exact .inl rfl

/-- What a DMA_RX step can do (R124). -/
theorem dmaRxStep_cases (s : State) :
    dmaRxStep s = s ∨
      (s.rx.desc = .issued ∧ s.rx.moved < segTotal s.rx.segs ∧
        ∃ u q m r, s.ssp.rxq = u :: q ∧
          dmaRxStep s = { s with
            ssp := { s.ssp with rxq := q }, mem := m, unsettled := r,
            rx := { s.rx with moved := s.rx.moved + legUnit s.leg }
            pendRx := s.pendRx || (decide (s.rx.moved + legUnit s.leg = segTotal s.rx.segs) && s.cb) } ∧
          (∀ b ∈ r, b ∈ s.unsettled) ∧ (MemInv s → MemInv (dmaRxStep s))) := by
  unfold dmaRxStep
  split
  · rename_i h
    cases hq : s.ssp.rxq with
    | nil => exact .inl rfl
    | cons u q =>
      cases hg : segAt s.rx.segs s.rx.moved with
      | none => exact .inl rfl
      | some go =>
        dsimp only
        split
        · exact .inl rfl
        · rename_i t ht
          refine .inr ⟨h.1, h.2, u, q, ?_⟩
          split at ht
          · obtain ⟨m, r, rfl, hm, hr, -⟩ := memWrite_some ht
            exact ⟨m, r, rfl, rfl, hr, hm⟩
          · cases ht; exact ⟨s.mem, s.unsettled, rfl, rfl, fun _ => id, id⟩
  · exact .inl rfl

/-- A CLOCK step sets `expired` or changes nothing (R125). -/
theorem clockStep_cases (s : State) :
    clockStep s = s ∨ ((∃ k, s.ph = .prepareMsg k) ∧ clockStep s = { s with expired := true }) := by
  unfold clockStep
  cases s.ph <;> simp

/-- A step is the next action of its agent. -/
theorem step_eq (s : State) : step s = perform (nextAction s) (consumed s) := rfl

/-- Taking the next action changes the agenda and the schedule's counter alone. -/
theorem consumed_eq (s : State) : ∃ l n, consumed s = { s with agenda := l, tick := n } := by
  unfold consumed
  split
  · exact ⟨[], s.tick + 1, by simp_all⟩
  · exact ⟨_, s.tick, rfl⟩

end Sys2Proof.Machine
end

