-- ==== Sys2Proof/Laws/PerInstr.lean ====
section
/-! SUPPORT. Statements about every instruction as syntax, one lemma per constructor. -/

namespace Sys2Proof.Laws.Codec

/-- An instruction's encoding (R61, R62, R65, R66): its word is a well-formed one of its format, and the decoder of that
format, and the table decoder at the instruction's width, read the instruction back from it. -/
def Statement (i : Instr) : Prop :=
  (encode i).2 < 2 ^ (encode i).1
    ∧ (if isEvent i then EvtCode.WellFormed (encodeEvt i) = true ∧ decodeEvt (encodeEvt i) = .ok i
       else CmdWord.WellFormed (encodeCmd i) = true ∧ decodeCmd (encodeCmd i) = .ok i)
    ∧ decodeTableWord (encode i).1 (encode i).2 = some i

end Sys2Proof.Laws.Codec

open Sys2Proof

theorem Sys2Proof.Laws.Codec.attach : Laws.Codec.Statement .attach := ⟨by decide, ⟨rfl, rfl⟩, rfl⟩

theorem Sys2Proof.Laws.Codec.detach : Laws.Codec.Statement .detach := ⟨by decide, ⟨rfl, rfl⟩, rfl⟩

theorem Sys2Proof.Laws.Codec.prepareHw : Laws.Codec.Statement .prepareHw := ⟨by decide, ⟨rfl, rfl⟩, rfl⟩

theorem Sys2Proof.Laws.Codec.unprepareHw : Laws.Codec.Statement .unprepareHw := ⟨by decide, ⟨rfl, rfl⟩, rfl⟩

theorem Sys2Proof.Laws.Codec.prepareMsg : Laws.Codec.Statement .prepareMsg := ⟨by decide, ⟨rfl, rfl⟩, rfl⟩

theorem Sys2Proof.Laws.Codec.transferOne : Laws.Codec.Statement .transferOne := ⟨by decide, ⟨rfl, rfl⟩, rfl⟩

theorem Sys2Proof.Laws.Codec.calcDivisors : Laws.Codec.Statement .calcDivisors := ⟨by decide, ⟨rfl, rfl⟩, rfl⟩

theorem Sys2Proof.Laws.Codec.evtIrq : Laws.Codec.Statement .evtIrq := ⟨by decide, ⟨rfl, rfl⟩, rfl⟩

theorem Sys2Proof.Laws.Codec.evtDmaRxDone : Laws.Codec.Statement .evtDmaRxDone := ⟨by decide, ⟨rfl, rfl⟩, rfl⟩
end

