-- ==== Sys2Proof/Laws/Step.lean ====
section
/-! SUPPORT. What a step can do, said once: BlockStep lists what exec can answer as a next state, AgentStep what an
action can; invariants are derived from these lists and not by unfolding exec. -/

namespace Sys2Proof.Machine

/-- The state after TRANSFER_ONE's configuration (R87). -/
def transferPathState (s : State) : State :=
  if s.dmaAv && decide (fifoDepth < s.leg.len.toNat) then dmaStart s
  else { s with legMode := .pio, fsm := .transferActive, ph := .transferOne (.engine .sr) }

/-- One step of an instruction, from s to the next state. -/
inductive BlockStep : Instr → State → State → Prop
  | badState {i s} : s.ph = .ready → requiredState s i = false → BlockStep i s (raised .badState s)
  | attachStart {s} : s.ph = .ready → s.life = .detached → BlockStep .attach s (moveTo (.attach .writeCr1) s)
  | attachFirst {s} : s.ph = .attach .writeCr1 →
      BlockStep .attach s
        (if s.answer then
           moveTo (.attach .acquireRx) { attachFirst (setSsp s { s.ssp with cr1 := 0 }) with scratchValid := true }
         else attachRelease (attachFirst (setSsp s { s.ssp with cr1 := 0 })))
  | attachRx {s} : s.ph = .attach .acquireRx →
      BlockStep .attach s (if s.answer then moveTo (.attach .acquireTx) (setHeld s .rx true) else attachRelease s)
  | attachTx {s} : s.ph = .attach .acquireTx →
      BlockStep .attach s (if s.answer then attachTail { setHeld s .tx true with dmaAv := true } else attachRelease s)
  | attachReleased {s} : s.ph = .attach .releaseRx → BlockStep .attach s (attachPio (setHeld s .rx false))
  | detachStart {s} : s.ph = .ready → requiredState s .detach = true → BlockStep .detach s (detachStart s)
  | detachStep {s k} : s.ph = .detach k → BlockStep .detach s (detachStep k s)
  | prepareHwStart {s} : s.ph = .ready → requiredState s .prepareHw = true →
      BlockStep .prepareHw s { s with clken := true, ph := .prepareHw .read }
  | prepareHwRead {s} : s.ph = .prepareHw .read → BlockStep .prepareHw s (moveTo (.prepareHw (.write s.ssp.cr1)) s)
  | prepareHwWrite {s v} : s.ph = .prepareHw (.write v) →
      BlockStep .prepareHw s (returned .ok { setSsp s { s.ssp with cr1 := v ||| sseMask } with hwp := true })
  | unprepareHwStart {s} : s.ph = .ready → requiredState s .unprepareHw = true →
      BlockStep .unprepareHw s (moveTo (.unprepareHw .read) s)
  | unprepareHwRead {s} : s.ph = .unprepareHw .read →
      BlockStep .unprepareHw s (moveTo (.unprepareHw (.write s.ssp.cr1)) s)
  | unprepareHwWrite {s v} : s.ph = .unprepareHw (.write v) →
      BlockStep .unprepareHw s
        (returned .ok { setSsp s { s.ssp with cr1 := v &&& ~~~sseMask } with clken := false, hwp := false })
  | prepareMsgStart {s} : s.ph = .ready → requiredState s .prepareMsg = true →
      BlockStep .prepareMsg s { s with msgSt := .ok, expired := false, ph := .prepareMsg .readSr }
  | flushEmpty {s} : s.ph = .prepareMsg .readSr → s.ssp.rxq = [] →
      BlockStep .prepareMsg s (returned .ok { s with fifoLvl := 0 })
  | flushTimeout {s} : s.ph = .prepareMsg .readSr → s.ssp.rxq ≠ [] → s.expired = true →
      BlockStep .prepareMsg s (returned .flushTimeout s)
  | flushMore {s} : s.ph = .prepareMsg .readSr → s.ssp.rxq ≠ [] → s.expired = false →
      BlockStep .prepareMsg s (moveTo (.prepareMsg .readDr) s)
  | flushDiscard {s u q} : s.ph = .prepareMsg .readDr → s.ssp.rxq = u :: q →
      BlockStep .prepareMsg s (moveTo (.prepareMsg .readSr) (setSsp s { s.ssp with rxq := q }))
  | flushUnderflow {s} : s.ph = .prepareMsg .readDr → s.ssp.rxq = [] →
      BlockStep .prepareMsg s (raised .rxFifoUnderflow s)
  | calcUnwritten {s} : (s.ph = .ready ∧ s.life = .attached) ∨ s.ph = .calcDivisors → s.args.speed = none →
      BlockStep .calcDivisors s (raised .unwrittenArgument { s with ph := .calcDivisors })
  | calcOk {s r p c} : (s.ph = .ready ∧ s.life = .attached) ∨ s.ph = .calcDivisors → s.args.speed = some r →
      calcDivisors s.params.baseRate r.toNat = some (p, c) →
      BlockStep .calcDivisors s (returned .ok { s with divRes := divResOk p c })
  | calcFail {s r} : (s.ph = .ready ∧ s.life = .attached) ∨ s.ph = .calcDivisors → s.args.speed = some r →
      calcDivisors s.params.baseRate r.toNat = none →
      BlockStep .calcDivisors s (returned .unsupportedRate { s with divRes := divResFail })
  | transferUnwritten {s} : (s.ph = .ready ∧ requiredState s .transferOne = true) ∨ s.ph = .transferOne .start →
      readRequest s.args = none →
      BlockStep .transferOne s (raised .unwrittenArgument { s with ph := .transferOne .start })
  | transferMalformed {s c l} : (s.ph = .ready ∧ requiredState s .transferOne = true) ∨ s.ph = .transferOne .start →
      readRequest s.args = some (c, l) → requestValid s.params c l = false →
      BlockStep .transferOne s (raised .malformedRequest { s with ph := .transferOne .start })
  | transferNoRate {s c l} : (s.ph = .ready ∧ requiredState s .transferOne = true) ∨ s.ph = .transferOne .start →
      readRequest s.args = some (c, l) → requestValid s.params c l = true →
      calcDivisors s.params.baseRate l.speed.toNat = none →
      BlockStep .transferOne s (returned .unsupportedRate { s with leg := l })
  | transferLatch {s c l p d} : (s.ph = .ready ∧ requiredState s .transferOne = true) ∨ s.ph = .transferOne .start →
      readRequest s.args = some (c, l) → requestValid s.params c l = true →
      calcDivisors s.params.baseRate l.speed.toNat = some (p, d) →
      BlockStep .transferOne s { s with leg := l, ph := .transferOne (.writeCpsr p d) }
  | transferCpsr {s p d} : s.ph = .transferOne (.writeCpsr p d) →
      BlockStep .transferOne s
        (moveTo (.transferOne (.writeCr0 d)) (setSsp s { s.ssp with cpsr := cpsrWord p }))
  | transferCr0 {s d} : s.ph = .transferOne (.writeCr0 d) →
      BlockStep .transferOne s
        (transferPathState { setSsp s { s.ssp with cr0 := cr0Word s.leg d } with rxc := 0, txc := 0 })
  | transferCr1Read {s} : s.ph = .transferOne (.cr1 .read) →
      BlockStep .transferOne s (moveTo (.transferOne (.cr1 (.write s.ssp.cr1))) s)
  | transferCr1Write {s v} : s.ph = .transferOne (.cr1 (.write v)) →
      BlockStep .transferOne s (returned .wait (setSsp s { s.ssp with cr1 := v ||| irqEnMask }))
  | transferDma {s k} : s.ph = .transferOne (.dma k) → BlockStep .transferOne s (dmaStep k s)
  | engineDrain {i s} : runsEngine i = true → s.ph = engineAt i .sr → s.ssp.rxq ≠ [] →
      BlockStep i s (moveTo (engineAt i .pop) s)
  | engineFill {i s} : runsEngine i = true → s.ph = engineAt i .sr → s.ssp.rxq = [] →
      BlockStep i s (engineFilled i s)
  | enginePop {i s t} : runsEngine i = true → s.ph = engineAt i .pop → pop s = .ok t →
      BlockStep i s (moveTo (engineAt i .sr) t)
  | enginePopFault {i s r} : runsEngine i = true → s.ph = engineAt i .pop →
      (r = .shadowUnderflow ∧ s.fifoLvl = 0) ∨
        (r = .rxCursorOverflow ∧ s.leg.len.toNat < s.rxc.toNat + legUnit s.leg) ∨
        (r = .rxFifoUnderflow ∧ s.ssp.rxq = []) →
      BlockStep i s (raised r s)
  | enginePush {i s t} : runsEngine i = true → s.ph = engineAt i .push → push s = .ok t →
      BlockStep i s (engineFilled i t)
  | enginePushFault {i s n} : runsEngine i = true → s.ph = engineAt i .push → fifoDepth ≤ s.ssp.txq.length →
      BlockStep i s (raised .txFifoOverflow { s with draws := n })
  | irqStart {s} : s.ph = .ready ∨ s.ph = .evtIrq .start → s.fsm = .transferActive → s.legMode = .pio →
      BlockStep .evtIrq s (moveTo (.evtIrq .readIir) s)
  | irqSpurious {s} : s.ph = .ready ∨ s.ph = .evtIrq .start → ¬(s.fsm = .transferActive ∧ s.legMode = .pio) →
      BlockStep .evtIrq s (raised .spuriousInterrupt { s with ph := .evtIrq .start })
  | irqOverrun {s} : s.ph = .evtIrq .readIir → s.ssp.roris = true → s.ssp.cr1.getLsbD 2 = true →
      BlockStep .evtIrq s (moveTo (.evtIrq .writeIcr) s)
  | irqEngine {s} : s.ph = .evtIrq .readIir → (s.ssp.roris && s.ssp.cr1.getLsbD 2) = false →
      BlockStep .evtIrq s (moveTo (.evtIrq (.engine .sr)) s)
  | irqIcr {s} : s.ph = .evtIrq .writeIcr →
      BlockStep .evtIrq s
        { setSsp s { s.ssp with roris := false } with msgSt := .ioError, fsm := .aborting, ph := .evtIrq (.cr1 .read) }
  | irqCr1Read {s} : s.ph = .evtIrq (.cr1 .read) → BlockStep .evtIrq s (moveTo (.evtIrq (.cr1 (.write s.ssp.cr1))) s)
  | irqCr1Write {s v} : s.ph = .evtIrq (.cr1 (.write v)) →
      BlockStep .evtIrq s (endLeg (setSsp s { s.ssp with cr1 := v &&& ~~~irqEnMask }))
  | dmaDoneStart {s} : s.ph = .ready ∨ s.ph = .evtDmaRxDone .start → s.fsm = .transferActive → s.legMode = .dma →
      s.leg.len.toNat ≤ s.tx.moved →
      BlockStep .evtDmaRxDone s { s with pendRx := false, ph := .evtDmaRxDone .unmapRx }
  | dmaDoneEarly {s} : s.ph = .ready ∨ s.ph = .evtDmaRxDone .start → s.fsm = .transferActive → s.legMode = .dma →
      s.tx.moved < s.leg.len.toNat →
      BlockStep .evtDmaRxDone s (raised .txDmaStillActive { s with pendRx := false, ph := .evtDmaRxDone .start })
  | dmaDoneSpurious {s} : s.ph = .ready ∨ s.ph = .evtDmaRxDone .start →
      ¬(s.fsm = .transferActive ∧ s.legMode = .dma) →
      BlockStep .evtDmaRxDone s (raised .spuriousDmaCallback { s with ph := .evtDmaRxDone .start })
  | dmaDoneUnmapRx {s} : s.ph = .evtDmaRxDone .unmapRx →
      BlockStep .evtDmaRxDone s (moveTo (.evtDmaRxDone .unmapTx) (setMapped s .rx false))
  | dmaDoneUnmapTx {s} : s.ph = .evtDmaRxDone .unmapTx →
      BlockStep .evtDmaRxDone s
        (endLeg { dropDesc (dropDesc (setMapped s .tx false) .rx) .tx with
          cb := false, rxc := s.leg.len, txc := s.leg.len, fsm := .done })

/-- A next state of the engine in TRANSFER_ONE or EVT_IRQ. -/
theorem engineStep_next {i : Instr} {here : EnginePos → Phase} {k : Bool → State → Out} {p : EnginePos} {s t : State}
    (hi : runsEngine i = true) (hh : ∀ q, here q = engineAt i q)
    (hk : ∀ u : State, k (decide (u.rxc = u.leg.len)) u = .next (engineEnd i u))
    (hp : s.ph = engineAt i p) (h : engineStep here k p s = .next t) : BlockStep i s t := by
  have hf : ∀ u : State, Sys2Proof.Machine.engineFill here k u = .next (engineFilled i u) := by
    intro u
    unfold Sys2Proof.Machine.engineFill engineFilled
    split
    · rw [goto_eq, hh]
    · exact hk u
  cases p with
  | sr =>
    simp only [engineStep, ioRead32_sr, bindOut_ok, srValue_rne] at h
    split at h
    · rw [goto_eq, hh] at h; cases h
      exact .engineDrain hi hp (rne_iff.1 ‹_›)
    · rw [hf] at h; cases h
      exact .engineFill hi hp (by have := rne_iff (p := s.ssp); simp_all)
  | pop =>
    simp only [engineStep] at h
    cases hq : pop s with
    | ok u =>
      rw [hq, bindOut_ok, goto_eq, hh] at h; cases h
      exact .enginePop hi hp hq
    | error o =>
      rw [hq, bindOut_error] at h; subst h
      rcases pop_error hq with ⟨h0, h1⟩ | ⟨h0, h1⟩ | ⟨h0, h1⟩ | h1
      · cases h1; exact .enginePopFault hi hp (.inl ⟨rfl, h0⟩)
      · cases h1; exact .enginePopFault hi hp (.inr (.inl ⟨rfl, h0⟩))
      · cases h1; exact .enginePopFault hi hp (.inr (.inr ⟨rfl, h0⟩))
      · cases h1
  | push =>
    simp only [engineStep] at h
    cases hq : push s with
    | ok u =>
      rw [hq, bindOut_ok, hf] at h; cases h
      exact .enginePush hi hp hq
    | error o =>
      rw [hq, bindOut_error] at h; subst h
      rcases push_error hq with ⟨h0, n, h1⟩ | h1
      · cases h1; exact .enginePushFault hi hp h0
      · cases h1

theorem transferStart_next {s t : State}
    (hs : (s.ph = .ready ∧ requiredState s .transferOne = true) ∨ s.ph = .transferOne .start)
    (h : transferStart s = .next t) : BlockStep .transferOne s t := by
  unfold transferStart at h
  split at h
  · cases h; exact .transferUnwritten hs ‹_›
  · split at h
    · unfold transferLatch at h
      split at h
      · cases h; exact .transferNoRate hs ‹_› ‹_› ‹_›
      · cases h; exact .transferLatch hs ‹_› ‹_› ‹_›
    · cases h; exact .transferMalformed hs ‹_› (by simp_all)

theorem calcBody_next {s t : State} (hs : (s.ph = .ready ∧ s.life = .attached) ∨ s.ph = .calcDivisors)
    (h : calcBody s = .next t) : BlockStep .calcDivisors s t := by
  unfold calcBody at h
  split at h
  · cases h; exact .calcUnwritten hs ‹_›
  · split at h
    · cases h; exact .calcOk hs ‹_› ‹_›
    · cases h; exact .calcFail hs ‹_› ‹_›

theorem irqStart_next {s t : State} (hs : s.ph = .ready ∨ s.ph = .evtIrq .start) (h : irqStart s = .next t) :
    BlockStep .evtIrq s t := by
  unfold irqStart at h
  split at h
  · cases h; exact .irqStart hs (And.left ‹_›) (And.right ‹_›)
  · cases h; exact .irqSpurious hs ‹_›

theorem dmaDoneStart_next {s t : State} (hs : s.ph = .ready ∨ s.ph = .evtDmaRxDone .start)
    (h : dmaDoneStart s = .next t) : BlockStep .evtDmaRxDone s t := by
  unfold dmaDoneStart at h
  split at h
  · split at h
    · cases h; exact .dmaDoneEarly hs (And.left ‹_›) (And.right ‹_›) ‹_›
    · cases h; exact .dmaDoneStart hs (And.left ‹_ ∧ _›) (And.right ‹_ ∧ _›) (by omega)
  · cases h; exact .dmaDoneSpurious hs ‹_›

theorem startCommand_next {i : Instr} {s t : State} {f : State → Out} (hp : s.ph = .ready)
    (h : startCommand i s f = .next t) (hf : requiredState s i = true → f s = .next t → BlockStep i s t) :
    BlockStep i s t := by
  unfold startCommand at h
  split at h
  · exact hf ‹_› h
  · cases h; exact .badState hp (by simp_all)

theorem noStep_ne_next {s t : State} : noStep s ≠ .next t := by unfold noStep; split <;> simp

/-- What exec can answer as a next state (the inversion lemma of the nine meanings). -/
theorem exec_next {i : Instr} {s t : State} (h : exec i s = .next t) : s.faults = [] ∧ BlockStep i s t := by
  have hf : s.faults = [] := by
    by_contra hc
    rw [exec_stopped i hc] at h; cases h
  refine ⟨hf, ?_⟩
  have hs : stopped s = false := stopped_nil hf
  cases i with
  | attach =>
    simp only [exec, execAttach, hs, Bool.false_eq_true, if_false] at h
    split at h
    · refine startCommand_next ‹_› h fun hr hg => ?_
      cases hg; exact .attachStart ‹_› (by simpa [requiredState] using hr)
    · rename_i k hk
      cases k <;> simp only [attachStep, ioWrite32_cr1, bindOut_ok] at h <;> cases h
      · exact .attachFirst hk
      · exact .attachRx hk
      · exact .attachTx hk
      · exact .attachReleased hk
    · exact absurd h noStep_ne_next
  | detach =>
    simp only [exec, execDetach, hs, Bool.false_eq_true, if_false] at h
    split at h
    · refine startCommand_next ‹_› h fun hr hg => ?_
      cases hg; exact .detachStart ‹_› hr
    · cases h; exact .detachStep ‹_›
    · exact absurd h noStep_ne_next
  | prepareHw =>
    simp only [exec, execPrepareHw, hs, Bool.false_eq_true, if_false] at h
    split at h
    · refine startCommand_next ‹_› h fun hr hg => ?_
      cases hg; exact .prepareHwStart ‹_› hr
    · rename_i k hk
      cases k <;> simp only [prepareHwStep, cr1Rmw, ioWrite32_cr1, ioRead32_cr1, bindOut_ok] at h <;> cases h
      · exact .prepareHwRead hk
      · exact .prepareHwWrite hk
    · exact absurd h noStep_ne_next
  | unprepareHw =>
    simp only [exec, execUnprepareHw, hs, Bool.false_eq_true, if_false] at h
    split at h
    · refine startCommand_next ‹_› h fun hr hg => ?_
      cases hg; exact .unprepareHwStart ‹_› hr
    · rename_i k hk
      cases k <;> simp only [unprepareHwStep, cr1Rmw, ioWrite32_cr1, ioRead32_cr1, bindOut_ok] at h <;> cases h
      · exact .unprepareHwRead hk
      · exact .unprepareHwWrite hk
    · exact absurd h noStep_ne_next
  | prepareMsg =>
    simp only [exec, execPrepareMsg, hs, Bool.false_eq_true, if_false] at h
    split at h
    · refine startCommand_next ‹_› h fun hr hg => ?_
      cases hg; exact .prepareMsgStart ‹_› hr
    · rename_i k hk
      cases k with
      | readSr =>
        simp only [flushStep, ioRead32_sr, bindOut_ok, srValue_rne] at h
        split at h
        · split at h
          · cases h; exact .flushTimeout hk (rne_iff.1 ‹_›) ‹_›
          · cases h; exact .flushMore hk (rne_iff.1 ‹_›) (by simp_all)
        · cases h; exact .flushEmpty hk (by have := rne_iff (p := s.ssp); simp_all)
      | readDr =>
        simp only [flushStep] at h
        rcases ioRead32_dr s with ⟨hq, hd⟩ | ⟨u, q, hq, hd⟩ <;> rw [hd] at h <;> cases h
        · exact .flushUnderflow hk hq
        · exact .flushDiscard hk hq
    · exact absurd h noStep_ne_next
  | transferOne =>
    simp only [exec, execTransferOne, hs, Bool.false_eq_true, if_false] at h
    split at h
    · exact startCommand_next ‹_› h fun hr hg => transferStart_next (.inl ⟨‹_›, hr⟩) hg
    · rename_i k hk
      cases k with
      | start => exact transferStart_next (.inr hk) h
      | writeCpsr p d => cases h; exact .transferCpsr hk
      | writeCr0 d =>
        simp only [transferStep, ioWrite32_cr0, bindOut_ok, transferPath] at h
        have : t = transferPathState
            { setSsp s { s.ssp with cr0 := cr0Word s.leg d } with rxc := 0, txc := 0 } := by
          unfold transferPathState
          split at h <;> cases h <;> simp_all [moveTo]
        rw [this]; exact .transferCr0 hk
      | engine p => exact engineStep_next rfl (fun _ => rfl) (fun _ => rfl) hk h
      | cr1 p =>
        cases p <;> cases h
        · exact .transferCr1Read hk
        · exact .transferCr1Write hk
      | dma k => cases h; exact .transferDma hk
    · exact absurd h noStep_ne_next
  | calcDivisors =>
    simp only [exec, execCalcDivisors, hs, Bool.false_eq_true, if_false] at h
    split at h
    · refine startCommand_next ‹_› h fun hr hg => calcBody_next (.inl ⟨‹_›, ?_⟩) hg
      simpa [requiredState] using hr
    · exact calcBody_next (.inr ‹_›) h
    · exact absurd h noStep_ne_next
  | evtIrq =>
    simp only [exec, execEvtIrq, hs, Bool.false_eq_true, if_false] at h
    split at h
    · exact irqStart_next (.inl ‹_›) h
    · rename_i k hk
      cases k with
      | start => exact irqStart_next (.inr hk) h
      | readIir =>
        simp only [irqStep, ioRead32_iir, bindOut_ok, iirValue_roris] at h
        split at h
        · cases h
          rename_i hb
          rw [Bool.and_eq_true] at hb
          exact .irqOverrun hk hb.1 hb.2
        · cases h
          rename_i hb
          exact .irqEngine hk (Bool.eq_false_iff.2 hb)
      | writeIcr => cases h; exact .irqIcr hk
      | engine p =>
        refine engineStep_next rfl (fun _ => rfl) (fun u => ?_) hk h
        unfold irqEngineDone engineEnd finish
        by_cases hc : u.rxc = u.leg.len <;> simp [hc, moveTo]
      | cr1 p =>
        cases p <;> cases h
        · exact .irqCr1Read hk
        · exact .irqCr1Write hk
    · exact absurd h noStep_ne_next
  | evtDmaRxDone =>
    simp only [exec, execEvtDmaRxDone, hs, Bool.false_eq_true, if_false] at h
    split at h
    · exact dmaDoneStart_next (.inl ‹_›) h
    · rename_i k hk
      cases k with
      | start => exact dmaDoneStart_next (.inr hk) h
      | unmapRx => cases h; exact .dmaDoneUnmapRx hk
      | unmapTx => cases h; exact .dmaDoneUnmapTx hk
    · exact absurd h noStep_ne_next

/-- One action of one agent, from s to the next state. -/
inductive AgentStep : Action → State → State → Prop
  | idle {a s} : AgentStep a s s
  | blockIdle {b s} : AgentStep (.block b) s { s with answer := b }
  | block {b s i t} : phaseOp s.ph = some i → s.faults = [] → BlockStep i { s with answer := b } t →
      AgentStep (.block b) s t
  | event {e i s t} : s.ph = .ready → s.faults = [] → eventEnabled s i = true → BlockStep i s t →
      AgentStep (.event e) s t
  | command {w i s t} : s.ph = .ready → s.faults = [] → decodeCmd w = .ok i → BlockStep i s t →
      AgentStep (.host (.write 0 w)) s t
  | illegalCommand {w s} : s.ph = .ready → s.faults = [] → AgentStep (.host (.write 0 w)) s (raised .illegalCommand s)
  | argWrite {off v s a} : s.ph = .ready → s.faults = [] → argWrite s.args off v = some a →
      AgentStep (.host (.write off v)) s { s with args := a }
  | illegalAccess {op s} : AgentStep (.host op) s (raised .illegalAccess s)
  | hostRead {op s v n} : AgentStep (.host op) s { s with hostData := v, draws := n }
  | hostMemWrite {a v s m r u} : (MemInv s → MemInv { s with mem := m, raced := r, unsettled := u }) →
      AgentStep (.host (.memWrite a v)) s { s with mem := m, raced := r, unsettled := u }
  | shift {v s} : AgentStep (.shift v) s (setSsp s (sspShift v s.ssp))
  | dmaTx {s} : AgentStep .dmaTx s (dmaTxStep s)
  | dmaRx {s} : AgentStep .dmaRx s (dmaRxStep s)
  | clock {s} : AgentStep .clock s (clockStep s)

/-- What an action can do. -/
theorem perform_next {a : Action} {s t : State} (h : perform a s = .next t) : AgentStep a s t := by
  cases a with
  | block b =>
    simp only [perform, blockStep] at h
    split at h
    · cases h; exact .blockIdle
    · rename_i i hi
      cases he : exec i { s with answer := b } with
      | next u => rw [he] at h; cases h; exact .block hi (exec_next he).1 (exec_next he).2
      | fault r => rw [he] at h; cases h; exact .blockIdle
      | refused r => rw [he] at h; cases h
  | event e =>
    simp only [perform, eventStep] at h
    split at h
    · cases h
    · rename_i i hi
      split at h
      · rename_i hc
        simp only [Bool.and_eq_true, beq_iff_eq] at hc
        exact .event hc.1.1 (exec_next h).1 hc.2 (exec_next h).2
      · cases h; exact .idle
  | host op =>
    cases op with
    | read off =>
      simp only [perform, hostStep, hostRead] at h
      split at h <;> cases h
      · exact .hostRead (n := s.draws)
      · exact .illegalAccess
    | write off v =>
      simp only [perform, hostStep, hostWrite] at h
      split at h
      · rename_i hc
        simp only [Bool.and_eq_true, beq_iff_eq, Bool.not_eq_true'] at hc
        have hf : s.faults = [] := by
          by_contra hne
          have := stopped_iff.2 hne
          simp_all
        split at h
        · unfold Sys2Proof.Machine.command at h
          split at h
          · cases h; exact .illegalCommand hc.1 hf
          · exact .command hc.1 hf ‹_› (exec_next h).2
        · split at h <;> cases h
          · exact .argWrite hc.1 hf ‹_›
          · exact .illegalAccess
      · cases h; exact .idle
    | memRead a =>
      simp only [perform, hostStep, hostMemRead] at h
      split at h
      · split at h <;> cases h
        · exact .hostRead
        · exact .hostRead (n := s.draws)
      · cases h; exact .idle
    | memWrite a v =>
      simp only [perform, hostStep, hostMemWrite] at h
      split at h <;> cases h
      · refine .hostMemWrite fun hi => ⟨wf_write _ _ hi.1, ?_⟩
        split
        · refine ⟨rising_addrInsert _ hi.2.1, rising_addrInsert _ hi.2.2.1, fun b hb => ?_⟩
          rw [mem_addrInsert] at hb ⊢
          exact hb.imp_right (hi.2.2.2 b)
        · refine ⟨rising_addrErase _ hi.2.1, rising_addrErase _ hi.2.2.1, fun b hb => ?_⟩
          rw [mem_addrErase] at hb ⊢
          exact ⟨hb.1, hi.2.2.2 b hb.2⟩
      · exact .idle
  | shift v => cases h; exact .shift
  | dmaTx => cases h; exact .dmaTx
  | dmaRx => cases h; exact .dmaRx
  | clock => cases h; exact .clock

/-- What a step can do: an agent's action, after the agenda or the schedule's counter has moved. -/
theorem step_next {s t : State} (h : step s = .next t) :
    ∃ l n, AgentStep (nextAction s) { s with agenda := l, tick := n } t := by
  obtain ⟨l, n, hc⟩ := consumed_eq s
  rw [step_eq, hc] at h
  exact ⟨l, n, perform_next h⟩

end Sys2Proof.Machine
end

