-- ==== Sys2Proof/Tests/Slice0.lean ====
section
/-! SUPPORT. Tests of the model: decoding from words written out bit by bit (30_encoding.md R65, R66), the ill-formed terms
WellFormed refuses, and single steps whose expected results are the vectors of 95_test_vectors.md named in each comment. Then
one witness for each statement of Certificates/Slice0/Obligations.lean that has hypotheses: states and operands that meet
them, clause by clause. -/

namespace Sys2Proof.Tests

open Sys2Proof Sys2Proof.Machine

/-! ### Helpers -/

/-- A field of a next state; none after a stop. -/
def field {α : Type} (o : Out) (f : State → α) : Option α :=
  match o with
  | .next t => some (f t)
  | .fault _ => none
  | .refused _ => none

/-- Reset, then attached without DMA. -/
def attached : State := { State.reset with life := .attached }

/-- Attached and prepared. -/
def prepared : State :=
  { attached with hwp := true, clken := true, ssp := { attached.ssp with cr1 := 0x10 } }

/-- Arguments of a leg: cfg, length, speed and the two addresses. -/
def withArgs (s : State) (cfg len speed tx rx : Word) : State :=
  { s with args := { txAddr := some tx, rxAddr := some rx, len := some len, cfg := some cfg, speed := some speed } }

/-- A latched leg with both buffers at 0x1000 and 0x2000, mode 0. -/
def leg (len : Word) (bpw : BitVec 5) : Leg :=
  { txp := true, rxp := true, tx := 0x1000, rx := 0x2000, len := len, bpw := bpw, speed := 1000000, cpol := false,
    cpha := false }

/-- An armed PIO leg at Ready, its counter, cursors and queues given. -/
def pio (l : Leg) (lvl : Nat) (rxc txc : Word) (txq rxq : List FifoUnit) : State :=
  { prepared with
    leg := l, fsm := .transferActive, legMode := .pio, fifoLvl := lvl, rxc := rxc, txc := txc
    ssp := { prepared.ssp with cr1 := 0x17, txq := txq, rxq := rxq } }

/-- An active DMA leg at Ready of len bytes from and to one segment, with these bytes moved. -/
def dma (len : Word) (moved : Nat) (rxq txq : List FifoUnit) : State :=
  { prepared with
    leg := leg len 8, fsm := .transferActive, legMode := .dma, dmaAv := true, cb := true
    ssp := { prepared.ssp with rxq := rxq, txq := txq }
    rx := { Chan.reset with
      held := true, segs := segmentsOf Params.default (leg len 8) .rx, mapped := true, reallocs := 1, desc := .issued
      moved := moved }
    tx := { Chan.reset with
      held := true, segs := segmentsOf Params.default (leg len 8) .tx, mapped := true, reallocs := 1, desc := .issued
      moved := moved } }

/-! ### Decoding: one word per row, written from R61, R62 and R65 -/

theorem test_decode_attach : decodeCmd 0b00000000000000000000000000000001 = .ok .attach := by decide
theorem test_decode_detach : decodeCmd 0b00000000000000000000000000000010 = .ok .detach := by decide
theorem test_decode_prepareHw : decodeCmd 0b00000000000000000000000000000011 = .ok .prepareHw := by decide
theorem test_decode_unprepareHw : decodeCmd 0b00000000000000000000000000000100 = .ok .unprepareHw := by decide
theorem test_decode_prepareMsg : decodeCmd 0b00000000000000000000000000000101 = .ok .prepareMsg := by decide
theorem test_decode_transferOne : decodeCmd 0b00000000000000000000000000000110 = .ok .transferOne := by decide
theorem test_decode_calcDivisors : decodeCmd 0b00000000000000000000000000000111 = .ok .calcDivisors := by decide
theorem test_decode_evtIrq : decodeEvt 0b10000000 = .ok .evtIrq := by decide
theorem test_decode_evtDmaRxDone : decodeEvt 0b10000001 = .ok .evtDmaRxDone := by decide

/-- V-ENC-2 to V-ENC-6: the reserved command words, each rejected under its own name. -/
theorem test_decode_reserved :
    decodeCmd 0x00000106 = .error .reservedBits ∧ decodeCmd 0x00000000 = .error .opcodeZero ∧
      decodeCmd 0x00000008 = .error .opcodeReserved ∧ decodeCmd 0x00000080 = .error .opcodeIsEvent ∧
      decodeCmd 0xFFFFFFFF = .error .reservedBits ∧ decodeEvt 0x7F = .error .notAnEvent ∧
      decodeEvt 0x82 = .error .eventReserved := by decide

/-- The opcode map's rows do not overlap: no word of a width matches two rows' patterns (R65, R67). -/
theorem test_rows_disjoint :
    opcodeTable.Pairwise (fun a b => a.nbits ≠ b.nbits ∨ a.pattern &&& b.mask ≠ b.pattern) := by decide

/-! ### WellFormed: an ill-formed term for each check -/

theorem test_wf_word_reserved_bit : CmdWord.reservedClear 0x00000106 = false := by decide
theorem test_wf_word_event : CmdWord.notEvent 0x00000080 = false := by decide
theorem test_wf_word_unassigned : CmdWord.assigned 0x00000008 = false ∧ CmdWord.assigned 0 = false := by decide
theorem test_wf_event_bit : EvtCode.isEvent 0x01 = false := by decide
theorem test_wf_event_unassigned : EvtCode.assigned 0x82 = false := by decide
theorem test_wf_params :
    Params.default.WellFormed = true ∧
      { Params.default with baseRate := 2 ^ 32 }.WellFormed = false ∧
      { Params.default with pageSize := 0 }.WellFormed = false ∧
      { Params.default with pageSize := 4095 }.WellFormed = false ∧
      { Params.default with addrW := 33 }.WellFormed = false ∧
      { Params.default with sspBase := 2 }.WellFormed = false ∧
      { Params.default with hostBase := 1 }.WellFormed = false := by decide

/-! ### The solver -/

/-- V-DIV-1, V-DIV-4, V-DIV-10, V-DIV-15: the loop of R74. -/
theorem test_div_loop :
    calcDivisors 14745600 1000000 = some (2, 7) ∧ calcDivisors 14745600 3686400 = some (2, 1) ∧
      calcDivisors 1001 125 = some (2, 3) ∧ calcDivisors 0 0 = some (2, 0) := by
  decide

/-- V-DIV-6 to V-DIV-9, V-DIV-11 to V-DIV-14, V-DIV-17: the closed form of R75. -/
theorem test_div_closed :
    calcDivisorsClosed 14745600 226 = some (254, 255) ∧ calcDivisorsClosed 14745600 225 = none ∧
      calcDivisorsClosed 14745600 0 = none ∧ calcDivisorsClosed 1000000 266 = some (16, 234) ∧
      calcDivisorsClosed 1000 0 = some (4, 250) ∧ calcDivisorsClosed 1000 1 = some (2, 250) ∧
      calcDivisorsClosed 65024 0 = none ∧
      calcDivisorsClosed 65024 1 = some (128, 254) := by decide

/-! ### One step of each instruction -/

/-- V-SES-1, V-DIV-20: the step that ends ATTACH with all draws true, and the advertised bounds its first step writes. -/
theorem test_attach_first :
    field (exec .attach { State.reset with ph := .attach .writeCr1, answer := true, ssp := { State.reset.ssp with cr1 := 0x5 } })
      (fun t => (t.ssp.cr1, t.minHz, t.maxHz, t.scratchValid, t.ph)) =
      some (0, 226, 7372800, true, .attach .acquireRx) := by decide

/-- V-SES-1: STATUS after ATTACH with every draw true. -/
theorem test_attach_status :
    field (exec .attach { State.reset with ph := .attach .acquireTx, answer := true }) statusValue =
      some 0x00000050 := by decide

/-- R26, R135: attached again with FIFOLVL = 5 left over from an abort, ATTACH keeps it for the next flush (log 22). -/
theorem test_attach_keeps_fifoLvl :
    field (exec .attach { State.reset with ph := .attach .acquireTx, answer := true, fifoLvl := 5 }) (·.fifoLvl) =
      some 5 := by decide

/-- V-SES-4: DETACH while prepared is BadState, code 2. -/
theorem test_detach_prepared : field (exec .detach prepared) (fun t => (t.faults, t.faultCode)) = some ([.badState], 2) := by
  decide

/-- V-SES-3: DETACH when detached is a no-op with result OK. -/
theorem test_detach_again :
    field (exec .detach { State.reset with lastRes := .wait }) (fun t => (t.life, t.lastRes, t.faults)) =
      some (.detached, .ok, []) := by decide

/-- V-SES-5: PREPARE_HW's last step sets SSE; STATUS = 0x00100070 with DMA available. -/
theorem test_prepareHw_write :
    field (exec .prepareHw { attached with dmaAv := true, clken := true, ph := .prepareHw (.write 0) })
      (fun t => (t.ssp.cr1, statusValue t)) = some (0x10, 0x00100070) := by decide

/-- V-ENC-11: PREPARE_HW while detached is BadState. -/
theorem test_prepareHw_detached :
    field (exec .prepareHw State.reset) (fun t => (t.faultCode, t.clken)) = some (2, false) := by decide

/-- V-SES-24: UNPREPARE_HW clears SSE and disables the clock. -/
theorem test_unprepareHw_write :
    field (exec .unprepareHw { prepared with ph := .unprepareHw (.write 0x10) })
      (fun t => (t.ssp.cr1, t.hwp, t.clken)) = some (0, false, false) := by decide

/-- V-SES-7: expiry seen with RNE = 1 ends the flush; RXQ and FIFOLVL are kept. -/
theorem test_flush_timeout :
    field (exec .prepareMsg { prepared with
        ph := .prepareMsg .readSr, expired := true, fifoLvl := 5, ssp := { prepared.ssp with rxq := [2, 3] } })
      (fun t => (t.lastRes, t.ssp.rxq, t.fifoLvl)) = some (.flushTimeout, [2, 3], 5) := by decide

/-- V-SES-8: RNE is tested before expiry. -/
theorem test_flush_empty_first :
    field (exec .prepareMsg { prepared with ph := .prepareMsg .readSr, expired := true, fifoLvl := 5 })
      (fun t => (t.lastRes, t.fifoLvl)) = some (.ok, 0) := by decide

/-- V-SES-13: an odd transmit address at 16 bits is MalformedRequest, code 3. -/
theorem test_transferOne_odd_address :
    field (exec .transferOne (withArgs prepared 0x310 4 1000000 0x1001 0x2000)) (fun t => (t.faultCode, t.leg)) =
      some (3, prepared.leg) := by decide

/-- V-SES-20: CR0 for 16 bits, CPOL 1, CPHA 0, counter 249; and the PIO arm without DMA. -/
theorem test_transferOne_cr0 :
    field (exec .transferOne { prepared with
        ph := .transferOne (.writeCr0 249), leg := { leg 4 16 with cpol := true } })
      (fun t => (t.ssp.cr0, t.legMode, t.ph)) = some (0x0000F98F, .pio, .transferOne (.engine .sr)) := by decide

/-- V-DIV-10: CALC_DIVISORS with base 1001 and r 125. -/
theorem test_calcDivisors_ok :
    field (exec .calcDivisors (withArgs
        { attached with params := { Params.default with baseRate := 1001 } } 0 0 125 0 0))
      (fun t => (t.divRes, t.lastRes)) = some (0x00000302, .ok) := by decide

/-- V-DIV-19: CALC_DIVISORS with ARG_SPEED Unwritten, code 4. -/
theorem test_calcDivisors_unwritten : field (exec .calcDivisors attached) (·.faultCode) = some 4 := by decide

/-- V-FIFO-8: the pop of 0xBEEF stores EF BE. -/
theorem test_evtIrq_pop :
    field (exec .evtIrq { pio (leg 2 16) 1 0 2 [] [0xBEEF] with ph := .evtIrq (.engine .pop) })
      (fun t => (t.mem, t.rxc, t.fifoLvl)) = some ([(0x2000, 0xEF), (0x2001, 0xBE)], 2, 0) := by decide

/-- V-FSM-2: after the ICR write, Finish's CR1 write ends the leg with IoError. -/
theorem test_evtIrq_finish :
    field (exec .evtIrq { pio (leg 20 8) 6 0 6 [] [1, 2, 3, 4] with
        msgSt := .ioError, fsm := .aborting, ph := .evtIrq (.cr1 (.write 0x17)) })
      (fun t => (t.ssp.cr1, t.finCnt, t.finLog, t.fsm, t.fifoLvl)) = some (0x10, 1, [.ioError], .idle, 6) := by decide

/-- V-DMA-10: the callback with TXMOVED below the length is TxDmaStillActive, code 9. -/
theorem test_dmaDone_early :
    field (exec .evtDmaRxDone { dma 9 8 [] [] with pendRx := true }) (fun t => (t.faultCode, t.pendRx)) =
      some (9, false) := by decide

/-- V-DMA-11: the last step of the completion. -/
theorem test_dmaDone_last :
    field (exec .evtDmaRxDone { dma 9 9 [] [] with ph := .evtDmaRxDone .unmapTx })
      (fun t => (t.rxc, t.txc, t.fsm, t.finCnt, t.ssp.cr1)) = some (9, 9, .idle, 1, 0x10) := by decide

/-! ### Agents and the host port -/

/-- R123: a shift into a full RXQ sets RORIS_RAW and loses the received unit. -/
theorem test_shift_overrun :
    (sspShift 5 { pio (leg 20 8) 8 0 8 [7] [0, 1, 2, 3, 4, 5, 6, 7] with ph := .ready }.ssp) =
      { cr0 := 0, cr1 := 0x17, cpsr := 0, txq := [], rxq := [0, 1, 2, 3, 4, 5, 6, 7], roris := true } := by decide

/-- R124, V-DMA-4: the last unit of a nine-byte leg makes the callback pending. -/
theorem test_dmaRx_last :
    (fun t : State => (t.rx.moved, t.pendRx, t.mem)) (dmaRxStep (dma 9 8 [0x5A] [])) = (9, true, [(0x2008, 0x5A)]) := by
  decide

/-- V-ENC-8, V-ENC-10: a HOST read of CMD and a misaligned one are IllegalAccess. -/
theorem test_host_illegal :
    field (perform (.host (.read 0x00)) State.reset) (·.faultCode) = some 10 ∧
      field (perform (.host (.read 0x06)) State.reset) (·.faultCode) = some 10 := by decide

/-- R123, R48: a table word placed by withFetchWord runs next: PREPARE_HW at reset is BadState (V-ENC-11). -/
theorem test_fetch_word : field (step (State.reset.withFetchWord 32 0x00000003)) (·.faultCode) = some 2 := by decide

/-- R46(b): the highest SSP register is at 0x14, and there is none at 0x18. -/
theorem test_ssp_map : sspRegAt 0x14 = some .iir ∧ sspRegAt 0x18 = none := by decide

/-- R56: a byte HOST wrote in a race stays a draw to BLOCK after a pop has stored over it, and HOST sees the byte popped. -/
theorem test_race_then_pop :
    field (exec .evtIrq { pio (leg 2 8) 1 0 1 [] [0x5A] with
        ph := .evtIrq (.engine .pop), raced := [0x2000], unsettled := [0x2000] })
      (fun t => (t.raced, t.unsettled, t.mem)) = some ([0x2000], [], [(0x2000, 0x5A)]) := by decide

/-! ### Witnesses: states and operands that meet the statements' hypotheses -/

/-- A state that BLOCK is at a position of, with its draw. -/
def at_ (s : State) (k : Phase) (b : Bool) : State := { s with ph := k, answer := b }

/-- A state whose next action is given. -/
def next_ (s : State) (a : Action) : State := { s with agenda := [a] }

/-- The DMA start with nothing mapped, its leg latched. -/
def dmaIdle : State := { prepared with dmaAv := true, leg := leg 9 8, scratchValid := true }

/-- A clean PIO leg of four bytes after its prime. -/
def clean : State := pio (leg 4 8) 4 0 4 [0xA1, 0xA2, 0xA3, 0xA4] []

/-- A state that meets every invariant: idle, attached, prepared. -/
theorem prepared_invariants :
    MemInv prepared ∧ FaultInv prepared ∧ ModeInv prepared ∧ FifoInv prepared ∧ CursorInv prepared ∧ DmaInv prepared ∧
      PendInv prepared ∧ Cr1Inv prepared := by
  refine ⟨⟨by decide, by simp [risingAddrs, prepared, attached, State.reset, State.resetWith]⟩, ?_, ?_, ?_, ?_, ?_, ?_, ?_⟩ <;>
    simp [FaultInv, ModeInv, ReadyModes, NoLeg, FifoInv, CursorInv, DmaInv, DmaQuiet, PendInv, Cr1Inv, prepared, attached,
      State.reset, State.resetWith, atPush, latched, inDmaStart, Chan.reset, heldCr1, inDetach, inTransfer, irqArmed,
      attachCleared, fifoDepth, irqEnMask]

/-- A clean leg meets the invariants it is stated with. -/
theorem clean_invariants : ModeInv clean ∧ FifoInv clean ∧ CursorInv clean ∧ Cr1Inv clean ∧ DmaInv clean ∧ PendInv clean := by
  refine ⟨?_, ?_, ?_, ?_, ?_, ?_⟩ <;>
    simp [ModeInv, ReadyModes, NoLeg, LegOn, FifoInv, CursorInv, DmaInv, DmaQuiet, PendInv, Cr1Inv, clean, pio, leg, prepared,
      attached, State.reset, State.resetWith, atPush, latched, inDmaStart, Chan.reset, heldCr1, inDetach, inTransfer,
      irqArmed, attachCleared, fifoDepth, irqEnMask, LegGeometry, legUnit, unitOf]

theorem clean_clean : CleanLeg clean := by
  refine ⟨⟨by decide, by decide⟩, by decide, by decide, by decide, by decide, by decide, by decide, by decide, by decide,
    by decide, by decide, by decide, ?_⟩
  simp [clean, pio, prepared, attached, State.reset, State.resetWith]

theorem witness_ReservedWordsAreIllegal :
    Free State.reset ∧ (0x00000106 : Word) >>> 8 ≠ 0 ∧ (0x00000000 : Word).toNat % 256 = 0 ∧
      (0x08 ≤ (0x00000008 : Word).toNat % 256 ∧ (0x0000007F : Word).toNat % 256 ≤ 0x7F) ∧
      0x80 ≤ (0x00000080 : Word).toNat % 256 ∧ (0x7F : Byte).toNat < 0x80 ∧ 0x82 ≤ (0x82 : Byte).toNat :=
  ⟨⟨by decide, by decide⟩, by decide, by decide, by decide, by decide, by decide, by decide⟩

theorem witness_StepRunsTheDecodedInstruction :
    (Free (next_ State.reset (.host (.write 0x00 0x01))) ∧ decodeCmd 0x01 = .ok .attach) ∧
      (Free (next_ clean (.event 0x80)) ∧ decodeEvt 0x80 = .ok .evtIrq ∧
        eventEnabled (next_ clean (.event 0x80)) .evtIrq = true) ∧
      phaseOp (at_ State.reset (.attach .writeCr1) true).ph = some .attach ∧ State.reset.agenda = [] :=
  ⟨⟨⟨by decide, by decide⟩, by decide⟩, ⟨⟨by decide, by decide⟩, by decide, by decide⟩, by decide, by decide⟩

theorem witness_InputsWaitForTheirCondition :
    ¬ Free (at_ State.reset (.attach .writeCr1) true) ∧ ¬ Free { State.reset with faults := [.badState] } ∧
      decodeEvt 0x81 = .ok .evtDmaRxDone ∧ eventEnabled State.reset .evtDmaRxDone = false ∧ State.reset.ph = .ready ∧
      phaseOp (at_ State.reset (.attach .writeCr1) true).ph = some .attach ∧ Instr.detach ≠ .attach := by
  refine ⟨?_, ?_, by decide, by decide, by decide, by decide, by decide⟩ <;> simp [Free, at_]

theorem witness_FetchedWordRunsNext : Free State.reset ∧ isEvent .attach = false ∧ isEvent .evtIrq = true :=
  ⟨⟨by decide, by decide⟩, by decide, by decide⟩

theorem witness_RequiredStateOfEveryCommand : Free State.reset ∧ Free prepared :=
  ⟨⟨by decide, by decide⟩, ⟨by decide, by decide⟩⟩

theorem witness_FaultEntry :
    { State.reset with faults := [.badState] }.faults ≠ [] ∧ decodeEvt 0x80 = .ok .evtIrq ∧
      portRead { State.reset with faults := [.badState] } 0x04 = some 0x80000000 := by decide

theorem witness_DivisorFloorAndCeiling : 14745600 / 2 ≤ 7372800 ∧ 225 < 14745600 / 65024 ∧ 65024 ≤ 65024 := by decide

theorem witness_DivisorIsFirstPair :
    calcDivisors 1001 125 = some (2, 3) ∧
      (2 ≤ 2 ∧ 2 ≤ 254 ∧ 2 % 2 = 0 ∧ 2 ≤ 255 ∧ (2 < 2 ∨ (2 = 2 ∧ 2 < 3)) ∧ 125 < 1001 / (2 * (2 + 1))) := by decide

theorem witness_DivisorGuarantees :
    calcDivisors 1001 125 = some (2, 3) ∧ 255 ≤ 255 ∧ 512 / (2 * (255 + 1)) ≤ 1 ∧
      (2 ≤ 254 ∧ 254 ≤ 254 ∧ 254 % 2 = 0 ∧ 255 ≤ 255 ∧ 512 / (254 * (255 + 1)) ≤ 1) := by decide

theorem witness_CalcDivisorsCompletes :
    Free (withArgs attached 0 0 7372800 0 0) ∧ (withArgs attached 0 0 7372800 0 0).life = .attached ∧
      calcDivisors (withArgs attached 0 0 7372800 0 0).params.baseRate (7372800 : Word).toNat = some (2, 0) ∧
      calcDivisorsClosed 14745600 225 = none ∧ attached.args.speed = none :=
  ⟨⟨by decide, by decide⟩, by decide, by decide, by decide, by decide⟩

theorem witness_AttachRuns :
    Free State.reset ∧ State.reset.life = .detached ∧ State.reset.rx.held = false ∧ State.reset.tx.held = false ∧
      At (.attach .acquireTx) (at_ State.reset (.attach .acquireTx) true) ∧
      (at_ State.reset (.attach .acquireTx) true).answer = true :=
  ⟨⟨by decide, by decide⟩, by decide, by decide, by decide, ⟨by decide, by decide⟩, by decide⟩

theorem witness_DetachRuns :
    (Free State.reset ∧ State.reset.life = .detached) ∧
      (Free attached ∧ attached.life = .attached ∧ attached.fsm = .idle ∧ attached.hwp = false) ∧
      At (.detach .releaseRx) (at_ attached (.detach .releaseRx) true) :=
  ⟨⟨⟨by decide, by decide⟩, by decide⟩, ⟨⟨by decide, by decide⟩, by decide, by decide, by decide⟩, ⟨by decide, by decide⟩⟩

theorem witness_PrepareHwSetsSse :
    (Free attached ∧ attached.life = .attached ∧ attached.fsm = .idle ∧ attached.hwp = false) ∧
      (Free prepared ∧ ¬ (prepared.life = .attached ∧ prepared.fsm = .idle ∧ prepared.hwp = false)) ∧
      At (.prepareHw .read) (at_ attached (.prepareHw .read) true) ∧
      At (.prepareHw (.write 0)) (at_ attached (.prepareHw (.write 0)) true) :=
  ⟨⟨⟨by decide, by decide⟩, by decide, by decide, by decide⟩, ⟨⟨by decide, by decide⟩, by decide⟩,
    ⟨by decide, by decide⟩, ⟨by decide, by decide⟩⟩

theorem witness_UnprepareHwClearsSse :
    (Free prepared ∧ prepared.life = .attached ∧ prepared.fsm = .idle ∧ prepared.hwp = true) ∧
      (Free attached ∧ ¬ (attached.life = .attached ∧ attached.fsm = .idle ∧ attached.hwp = true)) ∧
      At (.unprepareHw .read) (at_ prepared (.unprepareHw .read) true) ∧
      At (.unprepareHw (.write 0x10)) (at_ prepared (.unprepareHw (.write 0x10)) true) :=
  ⟨⟨⟨by decide, by decide⟩, by decide, by decide, by decide⟩, ⟨⟨by decide, by decide⟩, by decide⟩,
    ⟨by decide, by decide⟩, ⟨by decide, by decide⟩⟩

/-- PREPARE_MSG at its two positions with and without a unit in RXQ, and with and without expiry. -/
theorem witness_PrepareMsgFlushes :
    let one : State := { prepared with ssp := { prepared.ssp with rxq := [0x11] } }
    (Free prepared ∧ prepared.life = .attached ∧ prepared.fsm = .idle ∧ prepared.hwp = true) ∧
      (At (.prepareMsg .readSr) (at_ prepared (.prepareMsg .readSr) true) ∧ prepared.ssp.rxq = []) ∧
      (At (.prepareMsg .readSr) { at_ one (.prepareMsg .readSr) true with expired := true } ∧ one.ssp.rxq ≠ []) ∧
      (At (.prepareMsg .readSr) (at_ one (.prepareMsg .readSr) true) ∧ one.expired = false) ∧
      (At (.prepareMsg .readDr) (at_ one (.prepareMsg .readDr) true) ∧ one.ssp.rxq = 0x11 :: []) ∧
      At (.prepareMsg .readDr) (at_ prepared (.prepareMsg .readDr) true) ∧
      (∃ k, (at_ prepared (.prepareMsg .readDr) true).ph = .prepareMsg k) ∧ (∀ k, prepared.ph ≠ .prepareMsg k) := by
  refine ⟨⟨⟨by decide, by decide⟩, by decide, by decide, by decide⟩, ⟨⟨by decide, by decide⟩, by decide⟩,
    ⟨⟨by decide, by decide⟩, by decide⟩, ⟨⟨by decide, by decide⟩, by decide⟩, ⟨⟨by decide, by decide⟩, by decide⟩,
    ⟨by decide, by decide⟩, ⟨.readDr, rfl⟩, ?_⟩
  intro k; simp [prepared, attached, State.reset, State.resetWith]

theorem witness_FlushIsBounded :
    let one : State := { prepared with ssp := { prepared.ssp with rxq := [0x11] } }
    ((at_ one (.prepareMsg .readDr) true).ph = .prepareMsg .readDr ∧ one.tx.desc ≠ .issued ∧
      ∃ t, step (next_ (at_ one (.prepareMsg .readDr) true) (.block true)) = .next t ∧ t.ph = .prepareMsg .readSr) ∧
      Free one ∧ one.life = .attached ∧ one.fsm = .idle ∧ one.hwp = true ∧
      [true, true, true, true].length = 2 * one.ssp.rxq.length + 2 :=
  ⟨⟨by decide, by decide, ⟨_, rfl, by decide⟩⟩, ⟨by decide, by decide⟩, by decide, by decide, by decide, by decide⟩

theorem witness_RequestOperands :
    Free prepared ∧ readRequest prepared.args = none ∧
      readRequest (withArgs prepared 0x308 4 1000000 0x1000 0x2000).args = some (0x308, leg 4 8) :=
  ⟨⟨by decide, by decide⟩, by decide, by decide⟩

/-- Each of the six items at a boundary (V-SES-10 to V-SES-14), and a request that none of them holds of. -/
theorem witness_TransferOneValidates :
    Free (withArgs prepared 0x308 4 1000000 0x1000 0x2000) ∧
      requestValid prepared.params 0x308 (leg 4 8) = true ∧ requestValid prepared.params 0x304 (leg 4 4) = true ∧
      requestValid prepared.params 0x310 (leg 4 16) = true ∧
      requestValid prepared.params 0x303 (leg 4 3) = false ∧ requestValid prepared.params 0x311 (leg 4 17) = false ∧
      requestValid prepared.params 0x708 (leg 4 8) = false ∧ requestValid prepared.params 0x310 (leg 5 16) = false ∧
      requestValid prepared.params 0x310 { leg 4 16 with tx := 0x1001 } = false ∧
      requestValid { prepared.params with addrW := 12 } 0x308 (leg 4 8) = false ∧
      requestValid prepared.params 0x108 { leg 4 8 with tx := 0xFFFFFFFE } = false ∧
      requestValid prepared.params 0x108 { leg 4 8 with tx := 0xFFFFFFFC } = true ∧
      calcDivisors prepared.params.baseRate (leg 4 8).speed.toNat = some (2, 7) :=
  ⟨⟨by decide, by decide⟩, by decide, by decide, by decide, by decide, by decide, by decide, by decide, by decide,
    by decide, by decide, by decide, by decide⟩

theorem witness_ConfigurationIsWritten :
    At (.transferOne (.writeCpsr 2 7)) (at_ dmaIdle (.transferOne (.writeCpsr 2 7)) true) ∧
      At (.transferOne (.writeCr0 7)) (at_ dmaIdle (.transferOne (.writeCr0 7)) true) ∧
      4 ≤ dmaIdle.leg.bpw.toNat ∧ dmaIdle.leg.bpw.toNat ≤ 16 ∧ dmaIdle.dmaAv = true ∧ 8 < dmaIdle.leg.len.toNat ∧
      ¬ 8 < (leg 8 8).len.toNat :=
  ⟨⟨by decide, by decide⟩, ⟨by decide, by decide⟩, by decide, by decide, by decide, by decide, by decide⟩

theorem witness_PioArmReturnsWait :
    At (.transferOne (.cr1 .read)) (at_ clean (.transferOne (.cr1 .read)) true) ∧
      At (.transferOne (.cr1 (.write 0x10))) (at_ clean (.transferOne (.cr1 (.write 0x10))) true) :=
  ⟨⟨by decide, by decide⟩, ⟨by decide, by decide⟩⟩

/-- Both instructions that run the engine, at each position, with a full counter, a finished cursor and neither. -/
theorem witness_EngineDrainsBeforeFilling :
    let full : State := pio (leg 20 8) 8 0 8 [1, 2, 3, 4, 5, 6, 7] [9]
    runsEngine .transferOne = true ∧ runsEngine .evtIrq = true ∧
      (At (engineAt .evtIrq .sr) (at_ full (engineAt .evtIrq .sr) true) ∧ full.ssp.rxq ≠ []) ∧
      (At (engineAt .transferOne .sr) (at_ clean (engineAt .transferOne .sr) true) ∧ clean.ssp.rxq = []) ∧
      (At (engineAt .evtIrq .pop) (at_ full (engineAt .evtIrq .pop) true) ∧
        ∃ t, exec .evtIrq (at_ full (engineAt .evtIrq .pop) true) = .next t ∧ t.faults = []) ∧
      (At (engineAt .evtIrq .push) (at_ full (engineAt .evtIrq .push) true) ∧
        ∃ t, exec .evtIrq (at_ full (engineAt .evtIrq .push) true) = .next t ∧ t.faults = []) ∧
      (7 < 8 ∧ (19 : Word).toNat < (leg 20 8).len.toNat) ∧
      ¬ (full.fifoLvl < 8 ∧ full.txc.toNat < full.leg.len.toNat) ∧
      ¬ (clean.fifoLvl < 8 ∧ clean.txc.toNat < clean.leg.len.toNat) ∧ clean.rxc ≠ clean.leg.len :=
  ⟨by decide, by decide, ⟨⟨by decide, by decide⟩, by decide⟩, ⟨⟨by decide, by decide⟩, by decide⟩,
    ⟨⟨by decide, by decide⟩, ⟨_, rfl, by decide⟩⟩, ⟨⟨by decide, by decide⟩, ⟨_, rfl, by decide⟩⟩, by decide, by decide,
    by decide, by decide⟩

/-- The pop's cases at their boundaries: an empty counter, the last unit that fits and the first that does not (V-FIFO-10,
V-FIFO-11), an empty RXQ, a buffer the memory admits and one it refuses. -/
theorem witness_PopMovesOneUnit :
    let s : State := pio (leg 2 16) 1 0 2 [] [0xBEEF]
    runsEngine .evtIrq = true ∧ At (engineAt .evtIrq .pop) (at_ s (engineAt .evtIrq .pop) true) ∧
      (pio (leg 2 8) 0 0 0 [] [0x77]).fifoLvl = 0 ∧ (leg 2 8).len.toNat < (2 : Word).toNat + legUnit (leg 2 8) ∧
      (0 < s.fifoLvl ∧ s.rxc.toNat + legUnit s.leg ≤ s.leg.len.toNat ∧ s.ssp.rxq = 0xBEEF :: [] ∧ s.leg.rxp = true) ∧
      (pio (leg 2 16) 1 0 2 [] []).ssp.rxq = [] ∧ { leg 2 16 with rxp := false }.rxp = false ∧ MemInv s ∧
      (∀ k < legUnit s.leg, admitted s (s.leg.rx.toNat + s.rxc.toNat + k) = true) ∧
      (∃ k < legUnit s.leg, admitted { s with regions := [{ base := 0, size := 0x2001 }] }
        (s.leg.rx.toNat + s.rxc.toNat + k) = false) := by
  refine ⟨by decide, ⟨by decide, by decide⟩, by decide, by decide, by decide, by decide, by decide, ⟨by decide, ?_⟩,
    by decide, ⟨1, by decide, by decide⟩⟩
  simp [risingAddrs, pio, prepared, attached, State.reset, State.resetWith]

theorem witness_PushMovesOneUnit :
    let s : State := pio (leg 4 16) 1 0 2 [0] []
    runsEngine .transferOne = true ∧ At (engineAt .transferOne .push) (at_ s (engineAt .transferOne .push) true) ∧
      s.leg.txp = true ∧ s.ssp.txq.length < 8 ∧ { leg 4 16 with txp := false }.txp = false ∧
      (∀ k < legUnit s.leg, admitted s (s.leg.tx.toNat + s.txc.toNat + k) = true) ∧
      (s.leg.tx.toNat + s.txc.toNat ∉ s.raced ∧ s.leg.tx.toNat + s.txc.toNat + 1 ∉ s.raced ∧ s.raced = []) ∧
      legUnit s.leg = 2 ∧ legUnit (leg 4 8) = 1 ∧ 8 ≤ (pio (leg 20 8) 7 0 7 [1, 2, 3, 4, 5, 6, 7, 8] []).ssp.txq.length ∧
      (∃ k < legUnit s.leg, admitted { s with regions := [{ base := 0, size := 0x1003 }] }
        (s.leg.tx.toNat + s.txc.toNat + k) = false) :=
  ⟨by decide, ⟨by decide, by decide⟩, by decide, by decide, by decide, by decide, by decide, by decide, by decide,
    by decide, ⟨1, by decide, by decide⟩⟩

/-- V-FIFO-1's prime: four pushes of an eight-bit leg. -/
theorem witness_PrimeFillsTheFifo :
    let s : State := at_ (pio (leg 4 8) 0 0 0 [] []) (.transferOne (.engine .sr)) true
    At (.transferOne (.engine .sr)) s ∧ s.ssp.rxq = [] ∧ LegGeometry s.leg ∧ legUnit s.leg ∣ s.txc.toNat ∧
      s.txc.toNat ≤ s.leg.len.toNat ∧ s.fifoLvl ≤ 8 ∧ s.ssp.txq.length ≤ s.fifoLvl ∧
      (s.leg.txp = true → ∀ k : Nat, s.txc.toNat ≤ k → k < s.leg.len.toNat →
        admitted s (s.leg.tx.toNat + k) = true ∧ s.leg.tx.toNat + k ∉ s.raced) ∧
      (List.replicate 5 true).length =
        min (8 - s.fifoLvl) ((s.leg.len.toNat - s.txc.toNat) / legUnit s.leg) + 1 := by
  refine ⟨⟨by decide, by decide⟩, by decide, ⟨by decide, by decide, by decide⟩, by decide, by decide, by decide, by decide,
    ?_, by decide⟩
  intro _ k _ hk
  have h : k < 4 := hk
  have : k = 0 ∨ k = 1 ∨ k = 2 ∨ k = 3 := by omega
  rcases this with rfl | rfl | rfl | rfl <;> exact ⟨by decide, by decide⟩

theorem witness_DrainStoresUnitsInOrder :
    let s : State := at_ (pio (leg 2 8) 2 0 2 [] [0x11, 0x22]) (.evtIrq (.engine .sr)) true
    At (.evtIrq (.engine .sr)) s ∧ MemInv s ∧ LegGeometry s.leg ∧ s.leg.rxp = true ∧ s.ssp.rxq.length ≤ s.fifoLvl ∧
      s.rxc.toNat + s.ssp.rxq.length * legUnit s.leg ≤ s.leg.len.toNat ∧
      (∀ k : Nat, s.rxc.toNat ≤ k → k < s.leg.len.toNat → admitted s (s.leg.rx.toNat + k) = true) ∧
      (List.replicate 4 true).length = 2 * s.ssp.rxq.length := by
  refine ⟨⟨by decide, by decide⟩, ⟨by decide, ?_⟩, ⟨by decide, by decide, by decide⟩, by decide, by decide, by decide, ?_,
    by decide⟩
  · simp [risingAddrs, at_, pio, prepared, attached, State.reset, State.resetWith]
  · intro k _ hk
    have h : k < 2 := hk
    have : k = 0 ∨ k = 1 := by omega
    rcases this with rfl | rfl <;> decide

theorem witness_OnlyPopStores :
    MemInv prepared ∧ (∃ t, exec .unprepareHw prepared = .next t) ∧
      ¬ (runsEngine .unprepareHw = true ∧ prepared.ph = engineAt .unprepareHw .pop ∧ prepared.leg.rxp = true ∧
        prepared.leg.rx.toNat + prepared.rxc.toNat ≤ 0 ∧
        0 < prepared.leg.rx.toNat + prepared.rxc.toNat + legUnit prepared.leg) :=
  ⟨prepared_invariants.1, ⟨_, rfl⟩, by decide⟩

theorem witness_DmaPrepareSteps :
    At (dmaAt (.slaveConfig .rx)) (at_ dmaIdle (dmaAt (.slaveConfig .rx)) true) ∧
      At (dmaAt (.allocTable .tx)) (at_ dmaIdle (dmaAt (.allocTable .tx)) false) ∧
      At (dmaAt (.map .rx)) (at_ dmaIdle (dmaAt (.map .rx)) true) ∧
      At (dmaAt (.prep .tx)) (at_ dmaIdle (dmaAt (.prep .tx)) false) ∧
      At (dmaAt (.unmapFailed .tx)) (at_ dmaIdle (dmaAt (.unmapFailed .tx)) true) ∧
      (at_ dmaIdle (dmaAt (.prep .tx)) false).answer = false :=
  ⟨⟨by decide, by decide⟩, ⟨by decide, by decide⟩, ⟨by decide, by decide⟩, ⟨by decide, by decide⟩,
    ⟨by decide, by decide⟩, by decide⟩

theorem witness_DmaStartRuns :
    At (dmaAt (.slaveConfig .rx)) (at_ dmaIdle (dmaAt (.slaveConfig .rx)) true) ∧
      DmaQuiet (at_ dmaIdle (dmaAt (.slaveConfig .rx)) true) ∧
      At (dmaAt (.issue .tx)) (at_ dmaIdle (dmaAt (.issue .tx)) true) :=
  ⟨⟨by decide, by decide⟩, ⟨by decide, by decide, by decide, by decide, by decide⟩, ⟨by decide, by decide⟩⟩

theorem witness_FailedDmaStartUnwinds :
    At (dmaAt (.slaveConfig .rx)) (at_ dmaIdle (dmaAt (.slaveConfig .rx)) true) ∧
      DmaQuiet (at_ dmaIdle (dmaAt (.slaveConfig .rx)) true) ∧ 15 ≤ (List.replicate 15 false).length :=
  ⟨⟨by decide, by decide⟩, ⟨by decide, by decide, by decide, by decide, by decide⟩, by decide⟩

/-- The last byte of a leg of one byte more than a page (V-DMA-2). -/
theorem witness_SegmentsCoverTheLeg :
    0 < { Params.default with pageSize := 4 }.pageSize ∧
      (segmentsOf { Params.default with pageSize := 4 } (leg 5 8) .rx)[1]? = some ⟨.buf, 0x2004, 1⟩ ∧
      4 < (leg 5 8).len.toNat ∧ legPresent (leg 5 8) .rx = true ∧ legPresent { leg 5 8 with txp := false } .tx = false := by
  decide

theorem witness_TablesReallocateOnNewCount :
    (∃ t, exec .transferOne (at_ dmaIdle (dmaAt (.allocTable .rx)) true) = .next t ∧ t.ph = dmaAt (.map .rx) ∧
        t.rx.reallocs = 1) ∧
      (∃ t, exec .transferOne (at_ dmaIdle (dmaAt (.slaveConfig .rx)) true) = .next t ∧ t.ph = dmaAt (.allocTable .rx)) ∧
      (∃ t, exec .attach { at_ State.reset (.attach .acquireTx) true with rx := { Chan.reset with reallocs := 3 } } = .next t ∧
        t.rx.reallocs = 0) :=
  ⟨⟨_, rfl, by decide, by decide⟩, ⟨_, rfl, by decide⟩, ⟨_, rfl, by decide⟩⟩

/-- EVT_IRQ's positions; V-FSM-1 for the spurious case, V-FSM-2 for the overrun. -/
theorem witness_IrqSteps :
    let ovr : State := { clean with ssp := { clean.ssp with roris := true } }
    (Free clean ∧ LegOn .pio clean) ∧ (Free prepared ∧ ¬ LegOn .pio prepared) ∧
      (At (.evtIrq .readIir) (at_ ovr (.evtIrq .readIir) true) ∧ ovr.ssp.roris = true ∧ ovr.ssp.cr1.getLsbD 2 = true) ∧
      (At (.evtIrq .readIir) (at_ clean (.evtIrq .readIir) true) ∧ clean.ssp.roris = false) ∧
      At (.evtIrq .writeIcr) (at_ ovr (.evtIrq .writeIcr) true) ∧
      At (.evtIrq (.cr1 .read)) (at_ ovr (.evtIrq (.cr1 .read)) true) ∧
      At (.evtIrq (.cr1 (.write 0x17))) (at_ ovr (.evtIrq (.cr1 (.write 0x17))) true) := by
  refine ⟨⟨⟨by decide, by decide⟩, ⟨by decide, by decide⟩⟩, ⟨⟨by decide, by decide⟩, ?_⟩,
    ⟨⟨by decide, by decide⟩, by decide, by decide⟩, ⟨⟨by decide, by decide⟩, by decide⟩, ⟨by decide, by decide⟩,
    ⟨by decide, by decide⟩, ⟨by decide, by decide⟩⟩
  simp [LegOn, prepared, attached, State.reset, State.resetWith]

theorem witness_OverrunFailsTheMessage :
    let ovr : State := { clean with ssp := { clean.ssp with roris := true } }
    Free ovr ∧ LegOn .pio ovr ∧ ovr.ssp.roris = true ∧ ovr.ssp.cr1.getLsbD 2 = true ∧
      5 ≤ (List.replicate 5 true).length :=
  ⟨⟨by decide, by decide⟩, ⟨by decide, by decide⟩, by decide, by decide, by decide⟩

theorem witness_DmaDoneRuns :
    (Free prepared ∧ ¬ LegOn .dma prepared) ∧
      (Free (dma 9 8 [] []) ∧ LegOn .dma (dma 9 8 [] []) ∧ (dma 9 8 [] []).tx.moved < (dma 9 8 [] []).leg.len.toNat) ∧
      (Free (dma 9 9 [] []) ∧ (dma 9 9 [] []).leg.len.toNat ≤ (dma 9 9 [] []).tx.moved ∧
        3 ≤ (List.replicate 3 true).length) ∧
      At (.evtDmaRxDone .unmapTx) (at_ (dma 9 9 [] []) (.evtDmaRxDone .unmapTx) true) := by
  refine ⟨⟨⟨by decide, by decide⟩, ?_⟩, ⟨⟨by decide, by decide⟩, ⟨by decide, by decide⟩, by decide⟩,
    ⟨⟨by decide, by decide⟩, by decide, by decide⟩, ⟨by decide, by decide⟩⟩
  simp [LegOn, prepared, attached, State.reset, State.resetWith]

theorem witness_ShiftMovesOneUnit :
    attached.ssp.cr1.getLsbD 4 = false ∧ prepared.ssp.txq = [] ∧ clean.ssp.cr1.getLsbD 4 = true ∧
      clean.ssp.txq = 0xA1 :: [0xA2, 0xA3, 0xA4] := by decide

theorem witness_DmaTxMovesOneUnit :
    let s : State := dma 9 8 [] []
    let scratch : State := { s with tx := { s.tx with segs := [⟨.scratch, 0, 9⟩] } }
    ¬ (prepared.tx.desc = .issued ∧ prepared.tx.moved < segTotal prepared.tx.segs ∧ prepared.ssp.txq.length < 8) ∧
      (s.tx.desc = .issued ∧ s.tx.moved < segTotal s.tx.segs ∧ s.ssp.txq.length < 8 ∧
        segAt s.tx.segs s.tx.moved = some (⟨.buf, 0x1000, 9⟩, 8)) ∧
      segAt scratch.tx.segs scratch.tx.moved = some (⟨.scratch, 0, 9⟩, 8) ∧
      (∀ k < legUnit s.leg, admitted s (0x1000 + 8 + k) = true) ∧ 0x1000 + 8 ∉ s.raced ∧ legUnit s.leg = 1 ∧
      (∃ k < legUnit s.leg, admitted { s with regions := [{ base := 0, size := 0x1008 }] } (0x1000 + 8 + k) = false) :=
  ⟨by decide, by decide, by decide, by decide, by decide, by decide, ⟨0, by decide, by decide⟩⟩

theorem witness_DmaRxMovesOneUnit :
    let s : State := dma 9 8 [0x5A] []
    let scratch : State := { s with rx := { s.rx with segs := [⟨.scratch, 0, 9⟩] } }
    ¬ (prepared.rx.desc = .issued ∧ prepared.rx.moved < segTotal prepared.rx.segs ∧ prepared.ssp.rxq ≠ []) ∧
      (s.rx.desc = .issued ∧ s.rx.moved < segTotal s.rx.segs ∧ s.ssp.rxq = 0x5A :: [] ∧
        segAt s.rx.segs s.rx.moved = some (⟨.buf, 0x2000, 9⟩, 8)) ∧
      segAt scratch.rx.segs scratch.rx.moved = some (⟨.scratch, 0, 9⟩, 8) ∧ MemInv s ∧
      (∀ k < legUnit s.leg, admitted s (0x2000 + 8 + k) = true) ∧
      (∃ k < legUnit s.leg, admitted { s with regions := [{ base := 0, size := 0x2008 }] } (0x2000 + 8 + k) = false) := by
  refine ⟨by decide, by decide, by decide, ⟨by decide, ?_⟩, by decide, ⟨0, by decide, by decide⟩⟩
  simp [risingAddrs, dma, prepared, attached, State.reset, State.resetWith]

theorem witness_HostReads :
    portRead State.reset 0x3C = some 0 ∧ portRead State.reset 0x04 = some 0 ∧ portRead State.reset 0x18 = some 0 ∧
      portRead State.reset 0x00 = none ∧ portRead State.reset 0x40 = none ∧ portRead State.reset 0x06 = none := by decide

theorem witness_HostWrites : Free State.reset ∧ 0x04 ∉ [0x00, 0x10, 0x14, 0x18, 0x1C, 0x20] ∧
    0x24 ∉ [0x00, 0x10, 0x14, 0x18, 0x1C, 0x20] ∧ 0x12 ∉ [0x00, 0x10, 0x14, 0x18, 0x1C, 0x20] :=
  ⟨⟨by decide, by decide⟩, by decide, by decide, by decide⟩

theorem witness_SspAccesses :
    0x18 ∉ [0x00, 0x04, 0x08, 0x0C, 0x10, 0x14] ∧
    (pio (leg 2 16) 1 0 2 [] [0xBEEF]).ssp.rxq = 0xBEEF :: [] ∧ prepared.ssp.rxq = [] ∧ prepared.ssp.txq.length < 8 ∧
      (pio (leg 20 8) 7 0 7 [1, 2, 3, 4, 5, 6, 7] []).ssp.txq.length < 8 ∧
      8 ≤ (pio (leg 20 8) 8 0 8 [1, 2, 3, 4, 5, 6, 7, 8] []).ssp.txq.length := by decide

/-- A byte before, at and after a leg's receive buffer, and one the memory refuses. -/
theorem witness_HostMemoryAndRaces :
    MemInv prepared ∧ admitted { prepared with regions := [] } 0 = false ∧ admitted clean 0x2000 = true ∧
      racing clean 0x1FFF = false ∧ racing clean 0x2000 = true ∧ racing clean 0x2003 = true ∧ racing clean 0x2004 = false ∧
      0x2004 ∉ clean.unsettled ∧ 0x2000 ∈ { clean with raced := [0x2000], unsettled := [0x2000] }.raced ∧
      (∃ t, writeByte clean 0x2000 0x5A = some t) :=
  ⟨prepared_invariants.1, by decide, by decide, by decide, by decide, by decide, by decide, by decide, by decide, ⟨_, rfl⟩⟩

theorem witness_ResetMeetsTheInvariants :
    Memory.wf [(0x1000, 0xA1), (0x1001, 0xA2)] = true ∧ ([0, 1, 2, 3, 4, 5, 6, 7] : List FifoUnit).length ≤ 8 := by decide

theorem witness_MemoryStaysCanonical :
    MemInv prepared ∧ ∃ t, step (next_ prepared (.host (.memWrite 0x1000 0xA1))) = .next t :=
  ⟨prepared_invariants.1, ⟨_, rfl⟩⟩

theorem witness_FaultsAreSticky :
    FaultInv prepared ∧ (∃ t, step (next_ prepared (.host (.read 0x00))) = .next t ∧ t.faults = [.illegalAccess]) ∧
      (∃ t, step (next_ { prepared with faults := [.badState], faultCode := 2 } (.host (.read 0x00))) = .next t) ∧
      { prepared with faults := [.badState], faultCode := 2 }.faultCode ≠ 0 :=
  ⟨prepared_invariants.2.1, ⟨_, rfl, by decide⟩, ⟨_, rfl⟩, by decide⟩

theorem witness_ModesStayLegal :
    ModeInv prepared ∧ prepared.ph = .ready ∧ ∃ t, step (next_ prepared (.host (.write 0x00 0x04))) = .next t :=
  ⟨prepared_invariants.2.2.1, by decide, ⟨_, rfl⟩⟩

/-- A state before each of the five transitions of R107. -/
theorem witness_FsmMovesOnlyAsListed :
    (∃ t, step (next_ (at_ prepared (.transferOne (.writeCr0 7)) true) (.block true)) = .next t ∧ t.fsm ≠ .idle) ∧
      (∃ t, step (next_ (at_ dmaIdle (dmaAt (.issue .tx)) true) (.block true)) = .next t ∧ t.fsm ≠ .idle) ∧
      (∃ t, step (next_ (at_ clean (.evtIrq .writeIcr) true) (.block true)) = .next t ∧ t.fsm ≠ .transferActive) ∧
      (∃ t, step (next_ (at_ (pio (leg 4 8) 0 4 4 [] []) (.evtIrq (.engine .sr)) true) (.block true)) = .next t ∧
        t.fsm ≠ .transferActive) ∧
      (∃ t, step (next_ (at_ (dma 9 9 [] []) (.evtDmaRxDone .unmapTx) true) (.block true)) = .next t ∧
        t.fsm ≠ .transferActive) ∧
      (∃ t, step (next_ { at_ clean (.evtIrq (.cr1 (.write 0x17))) true with fsm := .done } (.block true)) = .next t ∧
        t.fsm ≠ .done) ∧
      ModeInv (at_ clean (.evtIrq .writeIcr) true) := by
  refine ⟨⟨_, rfl, by decide⟩, ⟨_, rfl, by decide⟩, ⟨_, rfl, by decide⟩, ⟨_, rfl, by decide⟩, ⟨_, rfl, by decide⟩,
    ⟨_, rfl, by decide⟩, ?_⟩
  simp [ModeInv, NoLeg, LegOn, at_, clean, pio, prepared, attached, State.reset, State.resetWith]

theorem witness_CountersAndCursorsStayInRange :
    ModeInv clean ∧ FifoInv clean ∧ CursorInv clean ∧ ∃ t, step (next_ clean (.shift 5)) = .next t :=
  ⟨clean_invariants.1, clean_invariants.2.1, clean_invariants.2.2.1, ⟨_, rfl⟩⟩

/-- The invariants hold before a command that is taken, and the resources' in ATTACH once the page is obtained too. -/
theorem witness_DmaResourcesStayConsistent :
    let s : State := next_ prepared (.host (.write 0x00 0x04))
    let r : State := { at_ State.reset (.attach .acquireRx) true with scratchValid := true, agenda := [.block true] }
    (ModeInv s ∧ DmaInv s ∧ PendInv s ∧ ResourceInv s ∧ ∃ t, step s = .next t) ∧
      (ModeInv r ∧ ResourceInv r ∧ ∃ t, step r = .next t) ∧ (∀ k, s.ph ≠ .attach k) ∧ (∀ k, s.ph ≠ .detach k) := by
  refine ⟨⟨prepared_invariants.2.2.1, prepared_invariants.2.2.2.2.2.1, prepared_invariants.2.2.2.2.2.2.1, ?_, ⟨_, rfl⟩⟩,
    ⟨?_, ?_, ⟨_, rfl⟩⟩, ?_, ?_⟩ <;>
    simp [ModeInv, NoLeg, ResourceInv, Holds, next_, at_, prepared, attached, State.reset, State.resetWith, Chan.reset]

theorem witness_Cr1FollowsTheBlock :
    ModeInv clean ∧ Cr1Inv clean ∧ ∃ t, step (next_ clean (.event 0x80)) = .next t :=
  ⟨clean_invariants.1, clean_invariants.2.2.2.1, ⟨_, rfl⟩⟩

theorem witness_CleanLegStaysTruthful :
    ModeInv clean ∧ CleanLeg clean ∧ (∃ t, step (next_ clean (.shift 5)) = .next t) ∧
      (let s : State := at_ { prepared with leg := leg 4 8 } (.transferOne (.writeCr0 7)) true
       ModeInv s ∧ At (.transferOne (.writeCr0 7)) s ∧ LegGeometry s.leg ∧ s.fifoLvl = 0 ∧ s.ssp.txq = [] ∧
        s.ssp.rxq = [] ∧ s.ssp.roris = false ∧ s.rx.desc ≠ .issued ∧ s.tx.desc ≠ .issued ∧
        ∃ t, exec .transferOne s = .next t ∧ t.legMode = .pio) := by
  refine ⟨clean_invariants.1, clean_clean, ⟨_, rfl⟩, ?_, ⟨by decide, by decide⟩, ⟨by decide, by decide, by decide⟩,
    by decide, by decide, by decide, by decide, by decide, by decide, ⟨_, rfl, by decide⟩⟩
  simp [ModeInv, NoLeg, at_, prepared, attached, State.reset, State.resetWith]

theorem witness_FinalizeOncePerLeg :
    (∃ t, step (next_ (at_ (dma 9 9 [] []) (.evtDmaRxDone .unmapTx) true) (.block true)) = .next t ∧ t.fsm = .idle) ∧
      ModeInv (at_ (dma 9 9 [] []) (.evtDmaRxDone .unmapTx) true) ∧ ModeInv clean ∧
      ∃ t, step (next_ clean (.shift 5)) = .next t := by
  refine ⟨⟨_, rfl, by decide⟩, ?_, clean_invariants.1, ⟨_, rfl⟩⟩
  simp [ModeInv, NoLeg, LegOn, at_, dma, prepared, attached, State.reset, State.resetWith]

theorem witness_IdleBlockIsQuiet :
    (ModeInv prepared ∧ DmaInv prepared ∧ PendInv prepared ∧ Cr1Inv prepared ∧ prepared.ph = .ready ∧ prepared.fsm = .idle) ∧
      (ModeInv clean ∧ DmaInv clean ∧ PendInv clean ∧ Cr1Inv clean ∧ clean.ph = .ready ∧
        eventEnabled clean .evtIrq = true) ∧
      (let s : State := { dma 9 9 [] [] with pendRx := true }
       ModeInv s ∧ DmaInv s ∧ PendInv s ∧ Cr1Inv s ∧ s.ph = .ready ∧ eventEnabled s .evtDmaRxDone = true) := by
  refine ⟨⟨prepared_invariants.2.2.1, prepared_invariants.2.2.2.2.2.1, prepared_invariants.2.2.2.2.2.2.1,
    prepared_invariants.2.2.2.2.2.2.2, by decide, by decide⟩, ⟨clean_invariants.1, clean_invariants.2.2.2.2.1,
    clean_invariants.2.2.2.2.2, clean_invariants.2.2.2.1, by decide, by decide⟩, ?_, ?_, ⟨?_, ?_, ?_⟩, ?_, by decide,
    by decide⟩
  · simp [ModeInv, ReadyModes, NoLeg, LegOn, dma, prepared, attached, State.reset, State.resetWith]
  · simp [DmaInv, DmaIs, dma, prepared, attached, State.reset, State.resetWith]
  · intro _; exact ⟨by decide, by decide⟩
  · simp [dma, prepared, attached, State.reset, State.resetWith]
  · simp [dma, prepared, attached, State.reset, State.resetWith]
  · simp [Cr1Inv, dma, prepared, attached, State.reset, State.resetWith, heldCr1, inDetach, inTransfer, irqArmed,
      attachCleared, irqEnMask]

theorem witness_CleanLegMakesProgress :
    ModeInv clean ∧ Cr1Inv clean ∧ CleanLeg clean ∧ clean.ph = .ready ∧ clean.rxc.toNat < clean.leg.len.toNat :=
  ⟨clean_invariants.1, clean_invariants.2.2.2.1, clean_clean, by decide, by decide⟩

theorem witness_OnlyTheNamedInstructionsWrite :
    (∃ t, exec .unprepareHw prepared = .next t) ∧ (∃ t, perform (.shift 5) clean = .next t) ∧
      (∀ b, Action.shift 5 ≠ .block b) ∧ (∀ e, Action.shift 5 ≠ .event e) ∧
      (∀ w, Action.shift 5 ≠ .host (.write 0x00 w)) :=
  ⟨⟨_, rfl⟩, ⟨_, rfl⟩, by simp, by simp, by simp⟩

end Sys2Proof.Tests
end

section
/-! SUPPORT. What an agent other than BLOCK can do, said once (OtherStep); and every step as one of BLOCK's or one of the
others', from which an invariant of step is two goals (step_keeps). -/

namespace Sys2Proof.Machine

/-- s with every element that an agent other than BLOCK may write taken from t (R9, R43, R56, R71, R123 to R125), and the
draw and the choices of the environment. -/
def outerOf (s t : State) : State :=
  { s with
    args := t.args, faults := t.faults, faultCode := t.faultCode
    rx := { s.rx with moved := t.rx.moved }, tx := { s.tx with moved := t.tx.moved }, pendRx := t.pendRx
    ssp := { s.ssp with txq := t.ssp.txq, rxq := t.ssp.rxq, roris := t.ssp.roris }
    expired := t.expired, mem := t.mem, raced := t.raced, unsettled := t.unsettled, draws := t.draws
    answer := t.answer, hostData := t.hostData, agenda := t.agenda, tick := t.tick }

/-- FAULTS and FAULTCODE are kept, or one reason joins them as `raise` says (R115). -/
def FaultsGrow (s t : State) : Prop :=
  (t.faults = s.faults ∧ t.faultCode = s.faultCode) ∨
    ∃ r, t.faults = addReason r s.faults ∧ t.faultCode = if s.faultCode = 0 then reasonCode r else s.faultCode

/-- The receive channel and PEND_RX are kept, or the channel, issued and not done, moves a unit (R124). -/
def RxMoves (s t : State) : Prop :=
  (t.pendRx = s.pendRx ∧ t.rx.moved = s.rx.moved) ∨
    (s.rx.desc = .issued ∧ s.rx.moved < segTotal s.rx.segs ∧
      (t.pendRx = true → s.pendRx = true ∨ segTotal s.rx.segs ≤ t.rx.moved))

/-- What an agent other than BLOCK, or an access of HOST that starts no instruction, can do. -/
structure OtherStep (s t : State) : Prop where
  frame : t = outerOf s t
  faults : FaultsGrow s t
  args : s.faults ≠ [] → t.args = s.args
  txq : s.ssp.txq.length ≤ fifoDepth → t.ssp.txq.length ≤ fifoDepth
  rxq : s.ssp.rxq.length ≤ fifoDepth → t.ssp.rxq.length ≤ fifoDepth
  rxMoves : RxMoves s t

theorem FaultsGrow.refl (s : State) : FaultsGrow s s := .inl ⟨rfl, rfl⟩

theorem raised_faultsGrow (r : Reason) (s : State) : FaultsGrow s (raised r s) := .inr ⟨r, rfl, rfl⟩

theorem RxMoves.refl (s : State) : RxMoves s s := .inl ⟨rfl, rfl⟩

theorem raised_otherStep (r : Reason) (s : State) : OtherStep s (raised r s) :=
  ⟨rfl, raised_faultsGrow r s, fun _ => rfl, id, id, .refl s⟩

theorem shift_otherStep (v : FifoUnit) (s : State) : OtherStep s (setSsp s (sspShift v s.ssp)) := by
  rcases sspShift_cases v s.ssp with h | ⟨u, q, hq, -, ⟨hl, h⟩ | ⟨-, h⟩⟩ <;> rw [h]
  · exact ⟨rfl, .refl s, fun _ => rfl, id, id, .refl s⟩
  · refine ⟨rfl, .refl s, fun _ => rfl, fun ht => ?_, fun _ => ?_, .refl s⟩
    · simp only [hq, List.length_cons, setSsp_ssp] at ht ⊢; omega
    · simp only [setSsp_ssp, List.length_append, List.length_singleton]; omega
  · refine ⟨rfl, .refl s, fun _ => rfl, fun ht => ?_, id, .refl s⟩
    simp only [hq, List.length_cons, setSsp_ssp] at ht ⊢; omega

theorem dmaTxStep_otherStep (s : State) : OtherStep s (dmaTxStep s) := by
  rcases dmaTxStep_cases s with h | ⟨-, -, hl, v, n, h⟩ <;> rw [h]
  · exact ⟨rfl, .refl s, fun _ => rfl, id, id, .refl s⟩
  · refine ⟨rfl, .refl s, fun _ => rfl, fun _ => ?_, id, .refl s⟩
    simp only [List.length_append, List.length_singleton]; omega

theorem dmaRxStep_otherStep (s : State) : OtherStep s (dmaRxStep s) := by
  rcases dmaRxStep_cases s with h | ⟨hi, hl, u, q, m, r, hq, h, -, -⟩ <;> rw [h]
  · exact ⟨rfl, .refl s, fun _ => rfl, id, id, .refl s⟩
  · refine ⟨rfl, .refl s, fun _ => rfl, id, fun hr => ?_, .inr ⟨hi, hl, fun hp => ?_⟩⟩
    · simp only [hq, List.length_cons] at hr ⊢; omega
    · simp only [Bool.or_eq_true, Bool.and_eq_true, decide_eq_true_eq] at hp
      exact hp.imp_right fun h => h.1.ge

theorem clockStep_otherStep (s : State) : OtherStep s (clockStep s) := by
  rcases clockStep_cases s with h | ⟨-, h⟩ <;> rw [h] <;>
    exact ⟨rfl, .refl s, fun _ => rfl, id, id, .refl s⟩

/-- No command word is an event's (R65). -/
theorem decodeCmd_isEvent {w : Word} {i : Instr} (h : decodeCmd w = .ok i) : isEvent i = false := by
  have htable : ∀ r ∈ opcodeTable, r.nbits = 32 → isEvent r.instr = false := by decide
  unfold decodeCmd lookupRow at h
  split at h
  · rename_i j hj
    cases h
    obtain ⟨r, hr, rfl⟩ := Option.map_eq_some_iff.1 hj
    refine htable r (List.mem_of_find?_eq_some hr) ?_
    have hm := List.find?_some hr
    simp only [rowMatches, Bool.and_eq_true, beq_iff_eq] at hm
    exact hm.1
  · cases h

/-- BLOCK may take instruction i: at PH = Ready an event is taken only while it is enabled (R119). -/
def Offered (i : Instr) (s : State) : Prop := s.ph = .ready → isEvent i = true → eventEnabled s i = true

/-- An action is a step of BLOCK with no fault recorded, or another agent's. -/
theorem AgentStep.block_or_other {a : Action} {s t : State} (h : AgentStep a s t) :
    (∃ (i : Instr) (b : Bool), s.faults = [] ∧ Offered i s ∧ BlockStep i { s with answer := b } t ∧
      ((∃ b, a = .block b) ∨ (∃ e, a = .event e) ∨ ∃ w, a = .host (.write 0x00 w))) ∨ OtherStep s t := by
  cases h with
  | block hi hf hb =>
    exact .inl ⟨_, _, hf, fun hp => by simp [hp, phaseOp] at hi, hb, .inl ⟨_, rfl⟩⟩
  | event hp hf he hb => exact .inl ⟨_, s.answer, hf, fun _ _ => he, hb, .inr (.inl ⟨_, rfl⟩)⟩
  | command hp hf hd hb =>
    exact .inl ⟨_, s.answer, hf, fun _ he => by simp [decodeCmd_isEvent hd] at he, hb, .inr (.inr ⟨_, rfl⟩)⟩
  | illegalCommand | illegalAccess => exact .inr (raised_otherStep _ s)
  | argWrite hp hf ha => exact .inr ⟨rfl, .refl s, fun hne => absurd hf hne, id, id, .refl s⟩
  | idle | blockIdle | hostRead | hostMemWrite => exact .inr ⟨rfl, .refl s, fun _ => rfl, id, id, .refl s⟩
  | shift => exact .inr (shift_otherStep _ s)
  | dmaTx => exact .inr (dmaTxStep_otherStep s)
  | dmaRx => exact .inr (dmaRxStep_otherStep s)
  | clock => exact .inr (clockStep_otherStep s)

/-- A step is one of BLOCK, with no fault recorded and up to the environment's choices, or another agent's. -/
theorem step_block_or_other {s t : State} (h : step s = .next t) :
    (∃ i l n b, s.faults = [] ∧ Offered i s ∧ BlockStep i { s with agenda := l, tick := n, answer := b } t) ∨
      OtherStep s t := by
  obtain ⟨l, n, ha⟩ := step_next h
  rcases ha.block_or_other with ⟨i, b, hf, ho, hb, -⟩ | ho
  · exact .inl ⟨i, l, n, b, hf, ho, hb⟩
  · exact .inr ⟨ho.frame, ho.faults, ho.args, ho.txq, ho.rxq, ho.rxMoves⟩

/-- What BLOCK's steps and the other agents' keep, every step of the machine keeps. -/
theorem step_keeps {P : State → Prop} (hblock : ∀ i s t, P s → s.faults = [] → Offered i s → BlockStep i s t → P t)
    (hother : ∀ s t, P s → OtherStep s t → P t) {s t : State} (hs : P s) (h : step s = .next t) : P t := by
  rcases step_block_or_other h with ⟨i, l, n, b, hf, ho, hb⟩ | ho
  · refine hblock i { s with agenda := l, tick := n, answer := b } t (hother s _ hs ?_) hf ho hb
    exact ⟨rfl, .refl s, fun _ => rfl, id, id, .refl s⟩
  · exact hother s t hs ho

end Sys2Proof.Machine
end

section
/-! SUPPORT. What a step of the DMA start can do (dmaStep_cases), what each instruction writes, as one equation
(InstrFrame), and where PH stands before and after its step. -/

namespace Sys2Proof.Machine

/-- s with every element that a step of the DMA start may write taken from t (R101 to R103). -/
def dmaWritten (s t : State) : State :=
  { s with
    fsm := t.fsm, legMode := t.legMode, ph := t.ph, lastRes := t.lastRes, cb := t.cb
    rx := { t.rx with held := s.rx.held }, tx := { t.tx with held := s.tx.held } }

/-- t differs from s in what a step of the DMA start writes alone. -/
def DmaFrame (s t : State) : Prop := t = dmaWritten s t

theorem DmaFrame.eq {s t : State} (h : DmaFrame s t) : t = dmaWritten s t := h

theorem DmaFrame.trans {s u t : State} (h : DmaFrame s u) (h' : DmaFrame u t) : DmaFrame s t := by
  unfold DmaFrame at *
  rw [h', h]
  rfl

theorem setChan_dmaFrame {s : State} {d : Dir} {c : Chan} (h : c.held = (chan s d).held) : DmaFrame s (setChan s d c) := by
  cases d <;> cases c <;> cases h <;> rfl

/-- The DMA start goes from s to t without a leg being armed: FSM and LEGMODE are kept, and PH is at another position of
the start or Ready; where `pre` holds of s, t meets DmaStartInv at that position, or is quiet (R101, R102, R103). -/
structure DmaGoesOn (pre : Prop) (s t : State) : Prop where
  frame : DmaFrame s t
  fsm : t.fsm = s.fsm
  legMode : t.legMode = s.legMode
  next : (∃ k, t.ph = dmaAt k ∧ (pre → DmaStartInv k t)) ∨ (t.ph = .ready ∧ (pre → DmaQuiet t))

/-- A position is entered once channels and the callback are written. -/
theorem moveTo_dmaGoesOn {pre : Prop} {s u : State} (k : DmaPos) (hframe : DmaFrame s u) (hfsm : u.fsm = s.fsm)
    (hmode : u.legMode = s.legMode) (h : pre → DmaStartInv k (moveTo (dmaAt k) u)) :
    DmaGoesOn pre s (moveTo (dmaAt k) u) :=
  ⟨hframe.trans rfl, hfsm, hmode, .inl ⟨k, rfl, h⟩⟩

theorem DmaGoesOn.after {pre pre' : Prop} {s u t : State} (h : DmaGoesOn pre u t) (hframe : DmaFrame s u)
    (hfsm : u.fsm = s.fsm) (hmode : u.legMode = s.legMode) (hpre : pre' → pre) : DmaGoesOn pre' s t :=
  ⟨hframe.trans h.frame, h.fsm.trans hfsm, h.legMode.trans hmode,
    h.next.imp (fun ⟨k, hk, hi⟩ => ⟨k, hk, hi ∘ hpre⟩) (fun ⟨hp, hq⟩ => ⟨hp, hq ∘ hpre⟩)⟩

theorem unwindUnmapRx_dmaGoesOn (s : State) :
    DmaGoesOn (s.tx.mapped = false ∧ s.rx.desc = .none ∧ s.tx.desc = .none ∧ s.cb = false) s (unwindUnmapRx s) := by
  unfold unwindUnmapRx
  split
  · exact moveTo_dmaGoesOn _ rfl rfl rfl fun h => ⟨‹_›, h⟩
  · exact ⟨rfl, rfl, rfl, .inr ⟨rfl, fun h => ⟨Bool.eq_false_iff.2 ‹_›, h⟩⟩⟩

theorem unwindTables_dmaGoesOn (s : State) :
    DmaGoesOn (s.rx.desc = .none ∧ s.tx.desc = .none) s (unwindTables s) := by
  unfold unwindTables unwindUnmapTx
  split
  · refine moveTo_dmaGoesOn _ rfl rfl rfl ?_
    rintro ⟨hr, ht⟩
    exact ⟨‹_›, hr, ht, rfl⟩
  · refine (unwindUnmapRx_dmaGoesOn _).after rfl rfl rfl ?_
    rintro ⟨hr, ht⟩
    exact ⟨Bool.eq_false_iff.2 ‹_›, hr, ht, rfl⟩

theorem unwindDescRx_dmaGoesOn (s : State) : DmaGoesOn (s.tx.desc = .none) s (unwindDescRx s) := by
  unfold unwindDescRx
  split
  · exact moveTo_dmaGoesOn _ rfl rfl rfl fun h => ⟨‹_›, h⟩
  · exact (unwindTables_dmaGoesOn (dropDesc s .rx)).after rfl rfl rfl fun h => ⟨rfl, h⟩

/-- DmaUnwind, from any position of the start before the first Issue (R103). -/
theorem dmaUnwind_dmaGoesOn (s : State) : DmaGoesOn (s.rx.desc ≠ .issued) s (dmaUnwind s) := by
  unfold dmaUnwind
  split
  · exact moveTo_dmaGoesOn _ rfl rfl rfl fun h => ⟨‹_›, h⟩
  · exact (unwindDescRx_dmaGoesOn (dropDesc s .tx)).after rfl rfl rfl fun _ => rfl

theorem prepTable_dmaGoesOn (d : Dir) (s : State) : DmaGoesOn (DmaStartInv (.slaveConfig d) s) s (prepTable d s) := by
  unfold prepTable
  split <;> cases d <;> exact moveTo_dmaGoesOn _ rfl rfl rfl id

/-- The receive channel is not issued before the last position of the start (R102). -/
theorem DmaStartInv.rx_desc_ne_issued {k : DmaPos} {s : State} (h : DmaStartInv k s) (hk : k ≠ .issue .tx) :
    s.rx.desc ≠ .issued := by
  cases k with
  | setCallback => rw [h.2.2.1]; decide
  | slaveConfig d | allocTable d | map d | prep d | unmapFailed d | submit d | issue d | unwindTerminate d
  | unwindUnmap d => cases d <;> simp_all [DmaStartInv, DmaQuiet, DmaIs]

/-- What a step of the DMA start can do: go on, with what is mapped, prepared, submitted and issued as each position lists,
or arm the leg in its last one (R101, R102, R103). -/
theorem dmaStep_cases (k : DmaPos) (s : State) :
    DmaGoesOn (DmaStartInv k s) s (dmaStep k s) ∨
      (k = .issue .tx ∧
        dmaStep k s = returned .wait { issued s .tx with legMode := .dma, fsm := .transferActive }) := by
  have hunwind : k ≠ .issue .tx → DmaGoesOn (DmaStartInv k s) s (dmaUnwind s) := fun hk =>
    (dmaUnwind_dmaGoesOn s).after rfl rfl rfl fun h => h.rx_desc_ne_issued hk
  cases k with
  | slaveConfig d =>
    refine .inl ((prepTable_dmaGoesOn d _).after (setChan_dmaFrame rfl) (setChan_fsm _ _ _) (setChan_legMode _ _ _) ?_)
    cases d <;> exact id
  | allocTable d =>
    refine .inl ?_
    show DmaGoesOn _ s (if s.answer then moveTo (dmaAt (.map d)) (setTable s d _ _) else dmaUnwind s)
    split
    · refine moveTo_dmaGoesOn _ (setChan_dmaFrame rfl) (setChan_fsm _ _ _) (setChan_legMode _ _ _) ?_
      cases d <;> exact id
    · exact hunwind (by simp)
  | map d =>
    refine .inl ?_
    show DmaGoesOn _ s (if s.answer then moveTo (dmaAt (.prep d)) (setMapped s d true) else dmaUnwind s)
    split
    · refine moveTo_dmaGoesOn _ (setChan_dmaFrame rfl) (setChan_fsm _ _ _) (setChan_legMode _ _ _) ?_
      cases d
      · rintro ⟨-, h⟩; exact ⟨rfl, h⟩
      · rintro ⟨hr, -, h⟩; exact ⟨hr, rfl, h⟩
    · exact hunwind (by simp)
  | prep d =>
    refine .inl ?_
    show DmaGoesOn _ s (if s.answer then prepOk (setDesc s d .prepared) d else moveTo (dmaAt (.unmapFailed d)) s)
    split
    · cases d
      · refine moveTo_dmaGoesOn _ rfl rfl rfl ?_
        rintro ⟨hr, ht, -, h⟩; exact ⟨hr, ht, rfl, h⟩
      · refine moveTo_dmaGoesOn _ rfl rfl rfl ?_
        rintro ⟨hr, ht, hd, -, h⟩; exact ⟨hr, ht, hd, rfl, h⟩
    · cases d <;> exact moveTo_dmaGoesOn _ rfl rfl rfl id
  | unmapFailed d =>
    refine .inl ((dmaUnwind_dmaGoesOn _).after (setChan_dmaFrame rfl) (setChan_fsm _ _ _) (setChan_legMode _ _ _) ?_)
    intro h
    have := h.rx_desc_ne_issued (by simp)
    cases d <;> exact this
  | setCallback =>
    refine .inl (moveTo_dmaGoesOn _ rfl rfl rfl ?_)
    rintro ⟨h1, h2, h3, h4, -⟩; exact ⟨h1, h2, h3, h4, rfl⟩
  | submit d =>
    refine .inl ?_
    show DmaGoesOn _ s (if s.answer then submitOk (setDesc s d .submitted) d else dmaUnwind s)
    split
    · cases d
      · refine moveTo_dmaGoesOn _ rfl rfl rfl ?_
        rintro ⟨hr, ht, -, h⟩; exact ⟨hr, ht, rfl, h⟩
      · refine moveTo_dmaGoesOn _ rfl rfl rfl ?_
        rintro ⟨hr, ht, hd, -, h⟩; exact ⟨hr, ht, hd, rfl, h⟩
    · exact hunwind (by simp)
  | issue d =>
    cases d
    · refine .inl (moveTo_dmaGoesOn _ rfl rfl rfl ?_)
      rintro ⟨hr, ht, -, h⟩; exact ⟨hr, ht, rfl, h⟩
    · exact .inr ⟨rfl, rfl⟩
  | unwindTerminate d =>
    cases d
    · refine .inl ((unwindTables_dmaGoesOn (dropDesc s .rx)).after rfl rfl rfl ?_)
      rintro ⟨-, ht⟩; exact ⟨rfl, ht⟩
    · exact .inl ((unwindDescRx_dmaGoesOn (dropDesc s .tx)).after rfl rfl rfl fun _ => rfl)
  | unwindUnmap d =>
    cases d
    · refine .inl ⟨rfl, rfl, rfl, .inr ⟨rfl, ?_⟩⟩
      rintro ⟨-, h⟩; exact ⟨rfl, h⟩
    · refine .inl ((unwindUnmapRx_dmaGoesOn (setMapped s .tx false)).after rfl rfl rfl ?_)
      rintro ⟨-, h⟩; exact ⟨rfl, h⟩

theorem dmaStep_dmaFrame (k : DmaPos) (s : State) : DmaFrame s (dmaStep k s) := by
  rcases dmaStep_cases k s with h | ⟨rfl, -⟩
  · exact h.frame
  · rfl

/-- s with every element that instruction i may write taken from t. -/
def written (i : Instr) (s t : State) : State :=
  match i with
  | .attach =>
    { s with
      life := t.life, hwp := t.hwp, clken := t.clken, fsm := t.fsm, legMode := t.legMode, ph := t.ph, rxc := t.rxc
      txc := t.txc, msgSt := t.msgSt, lastRes := t.lastRes, faults := t.faults, faultCode := t.faultCode
      minHz := t.minHz, maxHz := t.maxHz, dmaAv := t.dmaAv, scratchValid := t.scratchValid, cb := t.cb
      rx := { t.rx with slave := s.rx.slave, moved := s.rx.moved }
      tx := { t.tx with slave := s.tx.slave, moved := s.tx.moved }
      ssp := { s.ssp with cr1 := t.ssp.cr1 } }
  | .detach =>
    { s with
      life := t.life, ph := t.ph, lastRes := t.lastRes, faults := t.faults, faultCode := t.faultCode, dmaAv := t.dmaAv
      scratchValid := t.scratchValid
      rx := { s.rx with held := t.rx.held, segs := t.rx.segs }
      tx := { s.tx with held := t.tx.held, segs := t.tx.segs } }
  | .prepareHw | .unprepareHw =>
    { s with
      hwp := t.hwp, clken := t.clken, ph := t.ph, lastRes := t.lastRes, faults := t.faults, faultCode := t.faultCode
      ssp := { s.ssp with cr1 := t.ssp.cr1 } }
  | .prepareMsg =>
    { s with
      ph := t.ph, fifoLvl := t.fifoLvl, msgSt := t.msgSt, lastRes := t.lastRes, faults := t.faults
      faultCode := t.faultCode, ssp := { s.ssp with rxq := t.ssp.rxq }, expired := t.expired }
  | .transferOne =>
    { s with
      fsm := t.fsm, legMode := t.legMode, ph := t.ph, leg := t.leg, rxc := t.rxc, txc := t.txc, fifoLvl := t.fifoLvl
      lastRes := t.lastRes, faults := t.faults, faultCode := t.faultCode, cb := t.cb
      rx := { t.rx with held := s.rx.held }, tx := { t.tx with held := s.tx.held }
      ssp := { t.ssp with roris := s.ssp.roris }, mem := t.mem, unsettled := t.unsettled, draws := t.draws }
  | .calcDivisors =>
    { s with
      ph := t.ph, lastRes := t.lastRes, faults := t.faults, faultCode := t.faultCode, divRes := t.divRes }
  | .evtIrq =>
    { s with
      fsm := t.fsm, legMode := t.legMode, ph := t.ph, rxc := t.rxc, txc := t.txc, fifoLvl := t.fifoLvl
      msgSt := t.msgSt, faults := t.faults, faultCode := t.faultCode, finCnt := t.finCnt, finLog := t.finLog
      ssp := { t.ssp with cr0 := s.ssp.cr0, cpsr := s.ssp.cpsr }, mem := t.mem, unsettled := t.unsettled
      draws := t.draws }
  | .evtDmaRxDone =>
    { s with
      fsm := t.fsm, legMode := t.legMode, ph := t.ph, rxc := t.rxc, txc := t.txc, faults := t.faults
      faultCode := t.faultCode, finCnt := t.finCnt, finLog := t.finLog, cb := t.cb, pendRx := t.pendRx
      rx := { s.rx with mapped := t.rx.mapped, desc := t.rx.desc }
      tx := { s.tx with mapped := t.tx.mapped, desc := t.tx.desc } }

/-- t differs from s in what instruction i writes alone. -/
def InstrFrame (i : Instr) (s t : State) : Prop := t = written i s t

theorem InstrFrame.eq {i : Instr} {s t : State} (h : InstrFrame i s t) : t = written i s t := h

theorem raised_instrFrame (i : Instr) (r : Reason) (s : State) : InstrFrame i s (raised r s) := by cases i <;> rfl

/-- ATTACH's else branch: a held receive channel is released first (R81). -/
theorem attachRelease_cases (s : State) :
    (s.rx.held = true ∧ attachRelease s = moveTo (.attach .releaseRx) s) ∨
      (s.rx.held = false ∧ attachRelease s = attachPio s) := by
  unfold attachRelease; cases s.rx.held <;> simp

/-- DETACH's receive side: a held channel is released first (R82). -/
theorem detachRx_cases (s : State) :
    (s.rx.held = true ∧ detachRx s = moveTo (.detach .releaseRx) s) ∨ (s.rx.held = false ∧ detachRx s = detachTail s) := by
  unfold detachRx; cases s.rx.held <;> simp

/-- DETACH's start: nothing while detached, else the transmit side first (R82). -/
theorem detachStart_cases (s : State) :
    (s.life = .detached ∧ detachStart s = returned .ok s) ∨
      (s.life = .attached ∧ s.tx.held = true ∧ detachStart s = moveTo (.detach .releaseTx) s) ∨
      (s.life = .attached ∧ s.tx.held = false ∧ detachStart s = detachRx s) := by
  unfold detachStart; cases s.life <;> cases s.tx.held <;> simp

/-- The end of EVT_DMA_RX_DONE, element by element (R104). -/
theorem endLeg_dmaDone (s : State) :
    endLeg { dropDesc (dropDesc (setMapped s .tx false) .rx) .tx with
        cb := false, rxc := s.leg.len, txc := s.leg.len, fsm := .done } =
      { s with
        fsm := .idle, legMode := .none, ph := .ready, rxc := s.leg.len, txc := s.leg.len, cb := false
        rx := { s.rx with desc := .none }, tx := { s.tx with mapped := false, desc := .none }
        finCnt := s.finCnt + 1, finLog := s.msgSt :: s.finLog } := by
  simp [endLeg, finalized, dropDesc, setMapped, setChan, chan]

/-- An engine runs in TRANSFER_ONE or in EVT_IRQ (R95, R108). -/
theorem runsEngine_cases {i : Instr} (h : runsEngine i = true) : i = .transferOne ∨ i = .evtIrq := by
  cases i <;> simp [runsEngine] at h ⊢

/-- What follows the fill loop's test: another push, the rest of TRANSFER_ONE, Finish, or the return of EVT_IRQ (R90, R95,
R108). -/
theorem engineFilled_cases {i : Instr} (hi : runsEngine i = true) (s : State) :
    (fillMore s = true ∧ engineFilled i s = moveTo (engineAt i .push) s) ∨
      (i = .transferOne ∧ engineFilled i s = moveTo (.transferOne (.cr1 .read)) s) ∨
      (i = .evtIrq ∧ s.rxc = s.leg.len ∧ engineFilled i s = { s with fsm := .done, ph := .evtIrq (.cr1 .read) }) ∨
      (i = .evtIrq ∧ engineFilled i s = moveTo .ready s) := by
  unfold engineFilled
  split
  · exact .inl ⟨‹_›, rfl⟩
  · rcases runsEngine_cases hi with rfl | rfl
    · exact .inr (.inl ⟨rfl, rfl⟩)
    · by_cases hc : s.rxc = s.leg.len
      · exact .inr (.inr (.inl ⟨rfl, hc, by simp [engineEnd, hc]⟩))
      · exact .inr (.inr (.inr ⟨rfl, by simp [engineEnd, hc]⟩))

/-- The fill loop's test writes FSM and PH alone. -/
theorem engineFilled_eq {i : Instr} (hi : runsEngine i = true) (s : State) :
    ∃ f p, engineFilled i s = { s with fsm := f, ph := p } := by
  rcases engineFilled_cases hi s with ⟨-, h⟩ | ⟨-, h⟩ | ⟨-, -, h⟩ | ⟨-, h⟩ <;> rw [h] <;> exact ⟨_, _, rfl⟩

/-- What follows the configuration: the DMA start or the PIO arm (R87). -/
theorem transferPathState_cases (s : State) :
    transferPathState s = dmaStart s ∨
      transferPathState s = { s with legMode := .pio, fsm := .transferActive, ph := .transferOne (.engine .sr) } := by
  unfold transferPathState; split <;> simp

theorem InstrFrame.trans {i : Instr} {s u t : State} (h : InstrFrame i s u) (h' : InstrFrame i u t) :
    InstrFrame i s t := by
  unfold InstrFrame at *
  rw [h', h]
  cases i <;> rfl

theorem attachRelease_instrFrame (s : State) : InstrFrame .attach s (attachRelease s) := by
  rcases attachRelease_cases s with ⟨-, h⟩ | ⟨-, h⟩ <;> rw [h] <;> rfl

theorem detachRx_instrFrame (s : State) : InstrFrame .detach s (detachRx s) := by
  rcases detachRx_cases s with ⟨-, h⟩ | ⟨-, h⟩ <;> rw [h] <;> rfl

theorem detachStart_instrFrame (s : State) : InstrFrame .detach s (detachStart s) := by
  rcases detachStart_cases s with ⟨-, h⟩ | ⟨-, -, h⟩ | ⟨-, -, h⟩ <;> rw [h]
  · rfl
  · rfl
  · exact detachRx_instrFrame s

theorem engineFilled_instrFrame {i : Instr} (hi : runsEngine i = true) (s : State) :
    InstrFrame i s (engineFilled i s) := by
  obtain ⟨f, p, h⟩ := engineFilled_eq hi s
  rw [h]
  rcases runsEngine_cases hi with rfl | rfl <;> rfl

/-- Every step of an instruction writes the elements of that instruction alone. -/
theorem BlockStep.instrFrame {i : Instr} {s t : State} (h : BlockStep i s t) : InstrFrame i s t := by
  cases h with
  | badState | enginePopFault => exact raised_instrFrame i _ s
  | attachFirst | attachRx | attachTx =>
    split
    · rfl
    · refine InstrFrame.trans ?_ (attachRelease_instrFrame _)
      rfl
  | detachStart => exact detachStart_instrFrame s
  | @detachStep _ k =>
    cases k
    · exact InstrFrame.trans (u := setHeld s .tx false) rfl (detachRx_instrFrame _)
    · rfl
  | transferCr0 =>
    rcases transferPathState_cases _ with h | h <;> rw [h] <;> rfl
  | transferDma => rw [(dmaStep_dmaFrame _ s).eq]; rfl
  | engineDrain hi => rcases runsEngine_cases hi with rfl | rfl <;> rfl
  | engineFill hi => exact engineFilled_instrFrame hi s
  | enginePop hi _ hq =>
    obtain ⟨u, q, m, r, -, -, -, rfl, -⟩ := pop_ok hq
    rcases runsEngine_cases hi with rfl | rfl <;> rfl
  | enginePush hi _ hq =>
    obtain ⟨v, n, -, rfl⟩ := push_ok hq
    refine InstrFrame.trans ?_ (engineFilled_instrFrame hi _)
    rcases runsEngine_cases hi with rfl | rfl <;> rfl
  | enginePushFault hi => rcases runsEngine_cases hi with rfl | rfl <;> rfl
  | attachStart | attachReleased | prepareHwStart | prepareHwRead | prepareHwWrite | unprepareHwStart | unprepareHwRead
  | unprepareHwWrite | prepareMsgStart | flushEmpty | flushTimeout | flushMore | flushDiscard | flushUnderflow
  | calcUnwritten | calcOk | calcFail | transferUnwritten | transferMalformed | transferNoRate | transferLatch
  | transferCpsr | transferCr1Read | transferCr1Write | irqStart | irqSpurious | irqOverrun | irqEngine | irqIcr
  | irqCr1Read | irqCr1Write | dmaDoneStart | dmaDoneEarly | dmaDoneSpurious | dmaDoneUnmapRx => rfl
  | dmaDoneUnmapTx => rw [endLeg_dmaDone]; rfl

theorem phaseOp_engineAt {i : Instr} (hi : runsEngine i = true) (k : EnginePos) : phaseOp (engineAt i k) = some i := by
  rcases runsEngine_cases hi with rfl | rfl <;> rfl

/-- A step of an instruction finds PH at a position of it or at Ready (R22, R120). -/
theorem BlockStep.phase_at {i : Instr} {s t : State} (h : BlockStep i s t) : s.ph = .ready ∨ phaseOp s.ph = some i := by
  cases h with
  | badState hp | attachStart hp | detachStart hp | prepareHwStart hp | unprepareHwStart hp | prepareMsgStart hp =>
    exact .inl hp
  | calcUnwritten hp | calcOk hp | calcFail hp | transferUnwritten hp | transferMalformed hp | transferNoRate hp
  | transferLatch hp =>
    exact hp.imp And.left fun hp => by rw [hp]; rfl
  | irqStart hp | irqSpurious hp | dmaDoneStart hp | dmaDoneEarly hp | dmaDoneSpurious hp =>
    exact hp.imp_right fun hp => by rw [hp]; rfl
  | engineDrain hi hp | engineFill hi hp | enginePop hi hp | enginePopFault hi hp | enginePush hi hp
  | enginePushFault hi hp => exact .inr (by rw [hp]; exact phaseOp_engineAt hi _)
  | attachFirst hp | attachRx hp | attachTx hp | attachReleased hp | detachStep hp | prepareHwRead hp | prepareHwWrite hp
  | unprepareHwRead hp | unprepareHwWrite hp | flushEmpty hp | flushTimeout hp | flushMore hp | flushDiscard hp
  | flushUnderflow hp | transferCpsr hp | transferCr0 hp | transferCr1Read hp | transferCr1Write hp | transferDma hp
  | irqOverrun hp | irqEngine hp | irqIcr hp | irqCr1Read hp | irqCr1Write hp | dmaDoneUnmapRx hp
  | dmaDoneUnmapTx hp => exact .inr (by rw [hp]; rfl)

theorem attachRelease_phase (s : State) :
    (attachRelease s).ph = .ready ∨ phaseOp (attachRelease s).ph = some .attach := by
  rcases attachRelease_cases s with ⟨-, h⟩ | ⟨-, h⟩ <;> rw [h]
  · exact .inr rfl
  · exact .inl rfl

theorem detachRx_phase (s : State) : (detachRx s).ph = .ready ∨ phaseOp (detachRx s).ph = some .detach := by
  rcases detachRx_cases s with ⟨-, h⟩ | ⟨-, h⟩ <;> rw [h]
  · exact .inr rfl
  · exact .inl rfl

theorem engineFilled_phase {i : Instr} (hi : runsEngine i = true) (s : State) :
    (engineFilled i s).ph = .ready ∨ phaseOp (engineFilled i s).ph = some i := by
  rcases engineFilled_cases hi s with ⟨-, h⟩ | ⟨rfl, h⟩ | ⟨rfl, -, h⟩ | ⟨-, h⟩ <;> rw [h]
  · exact .inr (phaseOp_engineAt hi _)
  · exact .inr rfl
  · exact .inr rfl
  · exact .inl rfl

/-- A step of an instruction leaves PH at a position of it or at Ready (R22). -/
theorem BlockStep.phase_next {i : Instr} {s t : State} (h : BlockStep i s t) : t.ph = .ready ∨ phaseOp t.ph = some i := by
  cases h with
  | badState hp => exact .inl hp
  | attachFirst | attachRx =>
    split
    · exact .inr rfl
    · exact attachRelease_phase _
  | attachTx =>
    split
    · exact .inl rfl
    · exact attachRelease_phase _
  | detachStart =>
    rcases detachStart_cases s with ⟨-, h⟩ | ⟨-, -, h⟩ | ⟨-, -, h⟩ <;> rw [h]
    · exact .inl rfl
    · exact .inr rfl
    · exact detachRx_phase s
  | @detachStep _ k =>
    cases k
    · exact detachRx_phase _
    · exact .inl rfl
  | transferCr0 => rcases transferPathState_cases _ with h | h <;> rw [h] <;> exact .inr rfl
  | @transferDma _ k =>
    rcases dmaStep_cases k s with h | ⟨-, h⟩
    · exact h.next.symm.imp And.left fun ⟨j, hj, _⟩ => by rw [hj]; rfl
    · rw [h]; exact .inl rfl
  | engineDrain hi | enginePop hi => exact .inr (phaseOp_engineAt hi _)
  | engineFill hi | enginePush hi => exact engineFilled_phase hi _
  | enginePopFault hi hp | enginePushFault hi hp =>
    refine .inr ?_
    simp only [raised_ph, hp]
    exact phaseOp_engineAt hi _
  | flushUnderflow hp =>
    refine .inr ?_
    simp only [raised_ph, hp]
    rfl
  | attachReleased | prepareHwWrite | unprepareHwWrite | flushEmpty | flushTimeout | calcOk | calcFail | transferNoRate
  | transferCr1Write | irqCr1Write | dmaDoneUnmapTx => exact .inl rfl
  | attachStart | prepareHwStart | prepareHwRead | unprepareHwStart | unprepareHwRead | prepareMsgStart | flushMore
  | flushDiscard | calcUnwritten | transferUnwritten | transferMalformed | transferLatch | transferCpsr
  | transferCr1Read | irqStart | irqSpurious | irqOverrun | irqEngine | irqIcr | irqCr1Read | dmaDoneStart
  | dmaDoneEarly | dmaDoneSpurious | dmaDoneUnmapRx => exact .inr rfl

end Sys2Proof.Machine
end

section
/-! SUPPORT. FAULTS and FAULTCODE only grow, and after a fault only the other agents step (R29, R115). -/

namespace Sys2Proof.Machine

/-- FAULTS and FAULTCODE are the same. -/
def SameFaults (s t : State) : Prop := t.faults = s.faults ∧ t.faultCode = s.faultCode

theorem attachRelease_sameFaults (s : State) : SameFaults s (attachRelease s) := by
  rcases attachRelease_cases s with ⟨-, h⟩ | ⟨-, h⟩ <;> rw [h] <;> exact ⟨rfl, rfl⟩

theorem detachRx_sameFaults (s : State) : SameFaults s (detachRx s) := by
  rcases detachRx_cases s with ⟨-, h⟩ | ⟨-, h⟩ <;> rw [h] <;> exact ⟨rfl, rfl⟩

theorem detachStart_sameFaults (s : State) : SameFaults s (detachStart s) := by
  rcases detachStart_cases s with ⟨-, h⟩ | ⟨-, -, h⟩ | ⟨-, -, h⟩ <;> rw [h]
  · exact ⟨rfl, rfl⟩
  · exact ⟨rfl, rfl⟩
  · exact detachRx_sameFaults s

theorem engineFilled_sameFaults {i : Instr} (hi : runsEngine i = true) (s : State) :
    SameFaults s (engineFilled i s) := by
  obtain ⟨f, p, h⟩ := engineFilled_eq hi s
  rw [h]
  exact ⟨rfl, rfl⟩

theorem transferPathState_sameFaults (s : State) : SameFaults s (transferPathState s) := by
  rcases transferPathState_cases s with h | h <;> rw [h] <;> exact ⟨rfl, rfl⟩

theorem dmaStep_sameFaults (k : DmaPos) (s : State) : SameFaults s (dmaStep k s) := by
  rw [(dmaStep_dmaFrame k s).eq]
  exact ⟨rfl, rfl⟩

/-- Every step of an instruction keeps FAULTS and FAULTCODE or raises one fault (R115). -/
theorem BlockStep.faultsGrow {i : Instr} {s t : State} (h : BlockStep i s t) : FaultsGrow s t := by
  cases h with
  | badState | flushUnderflow | enginePopFault => exact raised_faultsGrow _ s
  | calcUnwritten | transferUnwritten | transferMalformed | irqSpurious | dmaDoneEarly | dmaDoneSpurious
  | enginePushFault => exact .inr ⟨_, rfl, rfl⟩
  | attachFirst | attachRx | attachTx =>
    split
    · exact .inl ⟨rfl, rfl⟩
    · exact .inl (attachRelease_sameFaults _)
  | detachStart => exact .inl (detachStart_sameFaults s)
  | @detachStep _ k =>
    cases k
    · exact .inl (detachRx_sameFaults (setHeld s .tx false))
    · exact .inl ⟨rfl, rfl⟩
  | transferCr0 => exact .inl (transferPathState_sameFaults _)
  | transferDma => exact .inl (dmaStep_sameFaults _ s)
  | engineFill hi => exact .inl (engineFilled_sameFaults hi s)
  | enginePop hi _ hq =>
    obtain ⟨u, q, m, r, -, -, -, rfl, -⟩ := pop_ok hq
    exact .inl ⟨rfl, rfl⟩
  | enginePush hi _ hq =>
    obtain ⟨v, n, -, rfl⟩ := push_ok hq
    exact .inl (engineFilled_sameFaults hi _)
  | dmaDoneUnmapTx => rw [endLeg_dmaDone]; exact .inl ⟨rfl, rfl⟩
  | attachStart | attachReleased | prepareHwStart | prepareHwRead | prepareHwWrite | unprepareHwStart | unprepareHwRead
  | unprepareHwWrite | prepareMsgStart | flushEmpty | flushTimeout | flushMore | flushDiscard
  | calcOk | calcFail | transferNoRate | transferLatch | transferCpsr | transferCr1Read | transferCr1Write | irqStart
  | irqOverrun | irqEngine | irqIcr | irqCr1Read | irqCr1Write | dmaDoneStart | dmaDoneUnmapRx | engineDrain =>
    exact .inl ⟨rfl, rfl⟩

theorem reasonCode_inj {r q : Reason} (h : reasonCode r = reasonCode q) : r = q := by
  revert h; cases r <;> cases q <;> decide

/-- Adding a reason keeps the set sorted by code (R29). -/
theorem pairwise_addReason (r : Reason) : ∀ {l : List Reason},
    l.Pairwise (fun a b => (reasonCode a).toNat < (reasonCode b).toNat) →
      (addReason r l).Pairwise fun a b => (reasonCode a).toNat < (reasonCode b).toNat
  | [], _ => by simp [addReason]
  | q :: l, h => by
    have h' := h
    rw [List.pairwise_cons] at h
    unfold addReason
    split
    · rename_i hlt
      have hlt' := BitVec.lt_def.1 hlt
      refine List.pairwise_cons.2 ⟨fun x hx => ?_, h'⟩
      rcases List.mem_cons.1 hx with rfl | hx
      · exact hlt'
      · exact Nat.lt_trans hlt' (h.1 x hx)
    · split
      · exact h'
      · rename_i hlt hne
        refine List.pairwise_cons.2 ⟨fun x hx => ?_, pairwise_addReason r h.2⟩
        rcases (mem_addReason r x l).1 hx with rfl | hx
        · have hc : reasonCode x ≠ reasonCode q := fun hc => hne (reasonCode_inj hc)
          bv_omega
        · exact h.1 x hx

/-- Raising a fault keeps FAULTS and FAULTCODE in agreement (R29). -/
theorem FaultInv.grow {s t : State} (hi : FaultInv s) (h : FaultsGrow s t) : FaultInv t := by
  obtain ⟨hsorted, hempty, hsome⟩ := hi
  unfold FaultInv
  rcases h with ⟨hf, hc⟩ | ⟨r, hf, hc⟩ <;> rw [hf, hc]
  · exact ⟨hsorted, hempty, hsome⟩
  · refine ⟨pairwise_addReason r hsorted, fun h => absurd h (addReason_ne_nil r _), fun _ => ?_⟩
    split
    · exact ⟨r, (mem_addReason _ _ _).2 (.inl rfl), rfl⟩
    · rename_i hcode
      obtain ⟨q, hq, hqc⟩ := hsome fun hnil => hcode (hempty hnil)
      exact ⟨q, (mem_addReason _ _ _).2 (.inr hq), hqc⟩

/-- Every step keeps FAULTS and FAULTCODE or raises one fault. -/
theorem step_faultsGrow {s t : State} (h : step s = .next t) : FaultsGrow s t := by
  rcases step_block_or_other h with ⟨i, l, n, b, -, -, hb⟩ | ho
  · exact hb.faultsGrow
  · exact ho.faults

/-- After a fault only an agent other than BLOCK steps (R115). -/
theorem step_other_of_faults {s t : State} (hf : s.faults ≠ []) (h : step s = .next t) : OtherStep s t := by
  rcases step_block_or_other h with ⟨i, l, n, b, hnil, -, -⟩ | ho
  · exact absurd hnil hf
  · exact ho

/-- Of a channel no agent but BLOCK writes more than the moved bytes (R124). -/
theorem chan_outerOf (s t : State) (d : Dir) :
    (chan (outerOf s t) d).held = (chan s d).held ∧ (chan (outerOf s t) d).slave = (chan s d).slave ∧
      (chan (outerOf s t) d).segs = (chan s d).segs ∧ (chan (outerOf s t) d).mapped = (chan s d).mapped ∧
      (chan (outerOf s t) d).reallocs = (chan s d).reallocs ∧ (chan (outerOf s t) d).desc = (chan s d).desc := by
  cases d <;> exact ⟨rfl, rfl, rfl, rfl, rfl, rfl⟩

/-- Settles O50: every step keeps the faults or raises one, and only BLOCK, which a fault stops, writes the rest. -/
theorem faultsAreSticky : Obligations.FaultsAreSticky := by
  intro s t h
  have hg := step_faultsGrow h
  refine ⟨fun hi => hi.grow hg, fun r hr => ?_, fun hc => ?_, fun hf => ?_⟩
  · rcases hg with ⟨hf, -⟩ | ⟨q, hf, -⟩ <;> rw [hf]
    · exact hr
    · exact (mem_addReason _ _ _).2 (.inr hr)
  · rcases hg with ⟨-, ht⟩ | ⟨q, -, ht⟩ <;> rw [ht]
    exact if_neg hc
  · have ho := step_other_of_faults hf h
    have ha := ho.args hf
    rw [ho.frame]
    exact ⟨rfl, rfl, rfl, rfl, rfl, ha, rfl, rfl, rfl, rfl, rfl, rfl, rfl, rfl, rfl, rfl, rfl, rfl, rfl, rfl, rfl,
      chan_outerOf s t, rfl, rfl, rfl⟩

end Sys2Proof.Machine
end

section
/-! SUPPORT. Which instruction writes which element (R26, R135, R139): BlockStep's frames, with FIFOLVL's three ways of changing. -/

namespace Sys2Proof.Machine

/-- How an instruction writes FIFOLVL: to 0 at the end of a flush, one down in a pop, one up in a push (R26, R135). -/
def FifoLvlWritten (i : Instr) (s t : State) : Prop :=
  t.fifoLvl = s.fifoLvl ∨
    (t.fifoLvl = 0 ∧ i = .prepareMsg ∧ s.ph = .prepareMsg .readSr ∧ s.ssp.rxq = [] ∧ t.lastRes = .ok) ∨
    (s.fifoLvl = t.fifoLvl + 1 ∧ t.ssp.rxq.length + 1 = s.ssp.rxq.length ∧ i ∈ [Instr.transferOne, .evtIrq]) ∨
    (t.fifoLvl = s.fifoLvl + 1 ∧ t.ssp.txq.length = s.ssp.txq.length + 1 ∧ i ∈ [Instr.transferOne, .evtIrq])

theorem BlockStep.fifoLvlWritten {i : Instr} {s t : State} (h : BlockStep i s t) : FifoLvlWritten i s t := by
  have hframe := h.instrFrame.eq
  cases h with
  | flushEmpty hp hq => exact .inr (.inl ⟨rfl, rfl, hp, hq, rfl⟩)
  | enginePop hi _ hq =>
    obtain ⟨u, q, m, r, hrxq, hl, -, rfl, -⟩ := pop_ok hq
    refine .inr (.inr (.inl ⟨?_, by simp [hrxq], ?_⟩))
    · simp only [moveTo_fifoLvl]; omega
    · rcases runsEngine_cases hi with rfl | rfl <;> simp
  | enginePush hi _ hq =>
    obtain ⟨v, n, -, rfl⟩ := push_ok hq
    obtain ⟨f, p, hu⟩ := engineFilled_eq hi { s with
      ssp := { s.ssp with txq := s.ssp.txq ++ [v] }, draws := n, txc := advance s.txc s.leg, fifoLvl := s.fifoLvl + 1 }
    refine .inr (.inr (.inr ?_))
    rw [hu]
    exact ⟨rfl, by simp, by rcases runsEngine_cases hi with rfl | rfl <;> simp⟩
  | engineFill hi =>
    obtain ⟨f, p, hu⟩ := engineFilled_eq hi s
    exact .inl (congrArg State.fifoLvl hu :)
  | transferCr0 => rcases transferPathState_cases _ with h | h <;> rw [h] <;> exact .inl rfl
  | transferDma => exact .inl (congrArg State.fifoLvl (dmaStep_dmaFrame _ s).eq :)
  | attachStart | attachFirst | attachRx | attachTx | attachReleased | detachStart | detachStep | prepareHwStart
  | prepareHwRead | prepareHwWrite | unprepareHwStart | unprepareHwRead | unprepareHwWrite | calcUnwritten | calcOk
  | calcFail | dmaDoneStart | dmaDoneEarly | dmaDoneSpurious | dmaDoneUnmapRx | dmaDoneUnmapTx =>
    exact .inl (congrArg State.fifoLvl hframe :)
  | badState | prepareMsgStart | flushTimeout | flushMore | flushDiscard | flushUnderflow | transferUnwritten
  | transferMalformed | transferNoRate | transferLatch | transferCpsr | transferCr1Read | transferCr1Write | engineDrain
  | enginePopFault | enginePushFault | irqStart | irqSpurious | irqOverrun | irqEngine | irqIcr | irqCr1Read
  | irqCr1Write => exact .inl rfl

/-- Settles O60: each instruction writes the elements of `written` alone, FIFOLVL as its inversion lists, and another
agent those of `outerOf`. -/
theorem onlyTheNamedInstructionsWrite : Obligations.OnlyTheNamedInstructionsWrite := by
  constructor
  · intro i s t h
    obtain ⟨-, hb⟩ := exec_next h
    refine ⟨?_, ?_, ?_, ?_, ?_, ?_, ?_, ?_, ?_, ?_, ?_, ?_, hb.fifoLvlWritten, ?_, ?_, ?_, ?_, ?_, ?_, ?_, ?_, ?_, ?_, ?_,
      ?_, ?_, ?_, ?_, ?_⟩ <;>
      rw [hb.instrFrame.eq] <;> cases i <;>
      simp only [written, isEvent, List.mem_cons, List.not_mem_nil, reduceCtorEq, or_false, or_true, and_self]
  · intro a s t h hblock hevent hcmd
    have ho : OtherStep s t := by
      rcases (perform_next h).block_or_other with ⟨i, b, -, -, -, ⟨c, rfl⟩ | ⟨e, rfl⟩ | ⟨w, rfl⟩⟩ | ho
      · exact absurd rfl (hblock c)
      · exact absurd rfl (hevent e)
      · exact absurd rfl (hcmd w)
      · exact ho
    rw [ho.frame]
    exact ⟨rfl, rfl, rfl, rfl, rfl, rfl, rfl, rfl, rfl, rfl, rfl, rfl, rfl, rfl, rfl, rfl, rfl, rfl, rfl, rfl, rfl,
      chan_outerOf s t, rfl, rfl, rfl⟩

end Sys2Proof.Machine
end

section
/-! SUPPORT. The host port's reads (R43) and the fields of STATUS, SGRX and SGTX (R34, R44). -/

namespace Sys2Proof.Machine

/-! ### Host reads -/

/-- Settles O41: the map lists exactly the offsets at which portRead answers. -/
theorem hostReads : Obligations.HostReads := by
  intro s off
  dsimp only
  refine ⟨fun v hv => ?_, fun hv => ?_⟩
  · show hostRead off s = _
    have hport : portRead s off = some v := by
      fin_cases hv <;> rfl
    unfold hostRead; rw [hport]
  · show hostRead off s = _
    have hport : portRead s off = none := by
      cases hp : portRead s off with
      | none => rfl
      | some v =>
        refine absurd ?_ (hv v)
        unfold portRead at hp
        split at hp <;> cases hp <;> simp
    unfold hostRead; rw [hport]; rfl

/-! ### STATUS, SGRX and SGTX -/

theorem bit_getLsbD (b : Bool) (n : Nat) : (bit b).getLsbD n = (decide (n = 0) && b) := by
  cases b
  · simp [bit]
  · simp [bit, BitVec.getLsbD_one]

/-- A word below 2^k has no bit from k on. -/
theorem getLsbD_of_lt {x : Word} {k n : Nat} (hx : x.toNat < 2 ^ k) (hn : k ≤ n) : x.getLsbD n = false :=
  Nat.testBit_lt_two_pow (hx.trans_le (Nat.pow_le_pow_right (by decide) hn))

theorem fsmCode_getLsbD (f : Fsm) {n : Nat} (h : 2 ≤ n) : (fsmCode f).getLsbD n = false :=
  getLsbD_of_lt (k := 2) (by cases f <;> decide) h

theorem legModeCode_getLsbD (m : LegMode) {n : Nat} (h : 2 ≤ n) : (legModeCode m).getLsbD n = false :=
  getLsbD_of_lt (k := 2) (by cases m <;> decide) h

theorem lifeCode_getLsbD (l : Life) {n : Nat} (h : 1 ≤ n) : (lifeCode l).getLsbD n = false :=
  getLsbD_of_lt (k := 1) (by cases l <;> decide) h

theorem resultCode_getLsbD (c : Result) {n : Nat} (h : 4 ≤ n) : (resultCode c).getLsbD n = false :=
  getLsbD_of_lt (k := 4) (by cases c <;> decide) h

theorem msgStCode_getLsbD (m : MsgStatus) {n : Nat} (h : 1 ≤ n) : (msgStCode m).getLsbD n = false :=
  getLsbD_of_lt (k := 1) (by cases m <;> decide) h

theorem lifeCode_getLsbD_zero (l : Life) : (lifeCode l).getLsbD 0 = true ↔ l = .attached := by cases l <;> decide

theorem msgStCode_getLsbD_zero (m : MsgStatus) : (msgStCode m).getLsbD 0 = true ↔ m = .ioError := by
  cases m <;> decide

/-- Bit n of STATUS: the bit of the field that covers it (R44). -/
def statusBit (s : State) (n : Nat) : Bool :=
  if n < 2 then (fsmCode s.fsm).getLsbD n
  else if n < 4 then (legModeCode s.legMode).getLsbD (n - 2)
  else if n = 4 then (lifeCode s.life).getLsbD 0
  else if n = 5 then s.hwp
  else if n = 6 then s.dmaAv
  else if n = 7 then s.ph != .ready
  else if n < 12 then (resultCode s.lastRes).getLsbD (n - 8)
  else if n = 12 then (msgStCode s.msgSt).getLsbD 0
  else if n < 16 then false
  else if n < 20 then (BitVec.ofNat 4 s.fifoLvl).getLsbD (n - 16)
  else if n = 20 then s.clken
  else if n = 31 then stopped s
  else false

theorem statusValue_getLsbD (s : State) {n : Nat} (h : n < 32) : (statusValue s).getLsbD n = statusBit s n := by
  simp only [statusValue, statusBit, BitVec.getLsbD_or, BitVec.getLsbD_shiftLeft, BitVec.getLsbD_setWidth,
    BitVec.getLsbD_ofNat, bit_getLsbD, decide_eq_true h, Bool.true_and]
  interval_cases n <;>
    simp only [fsmCode_getLsbD, legModeCode_getLsbD, lifeCode_getLsbD, resultCode_getLsbD, msgStCode_getLsbD,
      Nat.reduceLeDiff, Nat.reduceLT, Nat.reduceSub, Nat.reduceEqDiff, decide_true, decide_false, Bool.not_true,
      Bool.not_false, Bool.true_and, Bool.false_and, Bool.and_false, Bool.or_false, Bool.false_or, if_true, if_false]

/-- A field of a word is the value that has its bits. -/
theorem extractLsb'_eq_of_bits {x : Word} {k w : Nat} {y : BitVec w}
    (h : ∀ i < w, x.getLsbD (k + i) = y.getLsbD i) : x.extractLsb' k w = y := by
  refine BitVec.eq_of_getLsbD_eq fun i hi => ?_
  rw [BitVec.getLsbD_extractLsb', h i hi, decide_eq_true hi, Bool.true_and]

theorem statusValue_extractLsb' {s : State} {k w : Nat} {y : BitVec w} (hk : k + w ≤ 32)
    (h : ∀ i < w, statusBit s (k + i) = y.getLsbD i) : (statusValue s).extractLsb' k w = y :=
  extractLsb'_eq_of_bits fun i hi => (statusValue_getLsbD s (by omega)).trans (h i hi)

/-- SGRX and SGTX bit by bit (R34). -/
theorem sgValue_getLsbD (c : Chan) {n : Nat} (h : n < 32) :
    (sgValue c).getLsbD n =
      if n < 16 then (BitVec.ofNat 16 c.segs.length).getLsbD n
      else if n < 31 then (BitVec.ofNat 15 c.reallocs).getLsbD (n - 16)
      else c.mapped := by
  simp only [sgValue, nents, BitVec.getLsbD_or, BitVec.getLsbD_shiftLeft, BitVec.getLsbD_setWidth,
    BitVec.getLsbD_ofNat, bit_getLsbD, decide_eq_true h, Bool.true_and]
  interval_cases n <;>
    simp only [Nat.reduceLT, Nat.reduceSub, decide_true, decide_false, Bool.not_true, Bool.not_false,
      Bool.true_and, Bool.false_and, Bool.and_false, Bool.or_false, Bool.false_or, if_true, if_false]

/-- Settles O43: every field of the three words read off its bits. -/
theorem statusAndTableWords : Obligations.StatusAndTableWords := by
  refine ⟨fun s => ⟨?_, ?_, ?_, ?_, ?_, ?_, ?_, ?_, ?_, ?_, ?_, ?_, ?_⟩, by decide, fun c => ⟨?_, ?_, ?_⟩⟩
  · exact statusValue_extractLsb' (by decide) fun i hi => by unfold statusBit; interval_cases i <;> cases s.fsm <;> rfl
  · exact statusValue_extractLsb' (by decide) fun i hi => by unfold statusBit; interval_cases i <;> cases s.legMode <;> rfl
  · rw [statusValue_getLsbD s (by decide)]
    exact lifeCode_getLsbD_zero s.life
  · exact statusValue_getLsbD s (by decide)
  · exact statusValue_getLsbD s (by decide)
  · rw [statusValue_getLsbD s (by decide)]
    exact bne_iff_ne
  · exact statusValue_extractLsb' (by decide) fun i hi => by unfold statusBit; interval_cases i <;> cases s.lastRes <;> rfl
  · rw [statusValue_getLsbD s (by decide)]
    exact msgStCode_getLsbD_zero s.msgSt
  · exact statusValue_extractLsb' (by decide) fun i hi => by interval_cases i <;> rfl
  · exact statusValue_extractLsb' (by decide) fun i hi => by interval_cases i <;> rfl
  · exact statusValue_getLsbD s (by decide)
  · exact statusValue_extractLsb' (by decide) fun i hi => by interval_cases i <;> rfl
  · rw [statusValue_getLsbD s (by decide)]
    exact stopped_iff
  · refine extractLsb'_eq_of_bits fun i hi => ?_
    rw [sgValue_getLsbD c (by omega), if_pos (by omega), Nat.zero_add]
  · refine extractLsb'_eq_of_bits fun i hi => ?_
    rw [sgValue_getLsbD c (by omega), if_neg (by omega), if_pos (by omega), Nat.add_sub_cancel_left]
  · exact sgValue_getLsbD c (by decide)

end Sys2Proof.Machine
end

section
/-! SUPPORT. FSM and LEGMODE at each PH (R20, R21, R45(e)). -/

namespace Sys2Proof.Machine

theorem ModeInv.other {s t : State} (hm : ModeInv s) (h : OtherStep s t) : ModeInv t := by
  rw [h.frame]; exact hm

/-- A leg runs on an attached controller (R18). -/
theorem ModeInv.life_ne_detached {s : State} (hm : ModeInv s) (hf : s.fsm ≠ .idle) : s.life ≠ .detached :=
  fun hd => hf (hm.1 hd).1

/-- At PH = Ready an idle FSM has no leg (R45(e)). -/
theorem ModeInv.noLeg_of_ready {s : State} (hm : ModeInv s) (hp : s.ph = .ready) (hf : s.fsm = .idle) : NoLeg s := by
  simp only [ModeInv, hp] at hm
  rcases hm.2 with h | h | h
  · exact h
  · exact absurd (h.1.symm.trans hf) (by decide)
  · exact absurd (h.1.symm.trans hf) (by decide)

/-- The commands that need an idle FSM start without a leg, on an attached controller (R70). -/
theorem ModeInv.noLeg_of_required {s : State} {i : Instr} (hm : ModeInv s) (hp : s.ph = .ready)
    (hi : i ∈ [Instr.prepareHw, .unprepareHw, .prepareMsg, .transferOne]) (hr : requiredState s i = true) :
    NoLeg s ∧ s.life = .attached := by
  have hl : s.life = .attached ∧ s.fsm = .idle := by
    fin_cases hi <;> simp only [requiredState, Bool.and_eq_true, beq_iff_eq] at hr <;> exact hr.1
  exact ⟨hm.noLeg_of_ready hp hl.2, hl.1⟩

/-- DETACH starts without a leg (R70). -/
theorem ModeInv.noLeg_of_detach {s : State} (hm : ModeInv s) (hp : s.ph = .ready)
    (hr : requiredState s .detach = true) : NoLeg s := by
  simp only [requiredState, Bool.or_eq_true, Bool.and_eq_true, beq_iff_eq] at hr
  rcases hr with hd | ⟨⟨-, hf⟩, -⟩
  · exact hm.1 hd
  · exact hm.noLeg_of_ready hp hf

theorem ModeInv.attach {s : State} {k : AttachPos} (hm : ModeInv s) (hp : s.ph = .attach k) :
    NoLeg s ∧ s.life = .detached := by simp only [ModeInv, hp] at hm; exact hm.2

/-- An engine runs on a PIO leg (R95, R108). -/
theorem ModeInv.engine {s : State} {i : Instr} {k : EnginePos} (hm : ModeInv s) (hi : runsEngine i = true)
    (hp : s.ph = engineAt i k) : LegOn .pio s := by
  rcases runsEngine_cases hi with rfl | rfl <;> simp only [ModeInv, hp, engineAt] at hm <;> exact hm.2

/-- TRANSFER_ONE runs without a leg before its engine (R87). -/
theorem ModeInv.transfer {s : State} {k : TransferPos} (hm : ModeInv s) (hp : s.ph = .transferOne k)
    (hk : (∀ e, k ≠ .engine e) ∧ ∀ r, k ≠ .cr1 r) : NoLeg s ∧ s.life = .attached := by
  cases k with
  | engine e => exact absurd rfl (hk.1 e)
  | cr1 r => exact absurd rfl (hk.2 r)
  | start | writeCpsr | writeCr0 | dma => simp only [ModeInv, hp] at hm; exact hm.2

theorem ModeInv.transferStart {s : State} (hm : ModeInv s)
    (hp : (s.ph = .ready ∧ requiredState s .transferOne = true) ∨ s.ph = .transferOne .start) :
    NoLeg s ∧ s.life = .attached := by
  rcases hp with ⟨hp, hr⟩ | hp
  · exact hm.noLeg_of_required hp (by simp) hr
  · exact hm.transfer hp (by simp)

theorem attachTail_modeInv (s : State) : ModeInv (attachTail s) := ⟨nofun, .inl ⟨rfl, rfl⟩⟩

theorem attachRelease_modeInv {s : State} (hn : NoLeg s) (hl : s.life = .detached) : ModeInv (attachRelease s) := by
  rcases attachRelease_cases s with ⟨-, h⟩ | ⟨-, h⟩ <;> rw [h]
  · exact ⟨fun _ => hn, hn, hl⟩
  · exact attachTail_modeInv _

theorem detachRx_modeInv {s : State} (hn : NoLeg s) (hl : s.life = .attached) : ModeInv (detachRx s) := by
  rcases detachRx_cases s with ⟨-, h⟩ | ⟨-, h⟩ <;> rw [h]
  · exact ⟨fun _ => hn, hn, hl⟩
  · exact ⟨fun _ => hn, .inl hn⟩

theorem engineFilled_modeInv {i : Instr} {s : State} (hi : runsEngine i = true) (hl : s.life ≠ .detached)
    (hm : LegOn .pio s) : ModeInv (engineFilled i s) := by
  rcases engineFilled_cases hi s with ⟨-, h⟩ | ⟨-, h⟩ | ⟨-, -, h⟩ | ⟨-, h⟩ <;> rw [h] <;>
    refine ⟨fun hd => absurd hd hl, ?_⟩
  · rcases runsEngine_cases hi with rfl | rfl <;> exact hm
  · exact hm
  · exact ⟨.inr rfl, hm.2⟩
  · exact .inr (.inl hm)

/-- Every step of an instruction keeps ModeInv. -/
theorem ModeInv.block {i : Instr} {s t : State} (hm : ModeInv s) (h : BlockStep i s t) : ModeInv t := by
  have hl := hm.1
  cases h with
  | badState | flushUnderflow | enginePopFault | enginePushFault => exact hm
  | attachStart _ hd => exact ⟨hl, hl hd, hd⟩
  | attachFirst hp | attachRx hp =>
    obtain ⟨hn, hd⟩ := hm.attach hp
    split
    · exact ⟨fun _ => hn, hn, hd⟩
    · exact attachRelease_modeInv hn hd
  | attachTx hp =>
    obtain ⟨hn, hd⟩ := hm.attach hp
    split
    · exact attachTail_modeInv _
    · exact attachRelease_modeInv hn hd
  | attachReleased => exact attachTail_modeInv _
  | detachStart hp hr =>
    rcases detachStart_cases s with ⟨hd, h⟩ | ⟨ha, -, h⟩ | ⟨ha, -, h⟩ <;> rw [h]
    · exact ⟨hl, .inl (hl hd)⟩
    · exact ⟨hl, hm.noLeg_of_detach hp hr, ha⟩
    · exact detachRx_modeInv (hm.noLeg_of_detach hp hr) ha
  | @detachStep _ k hp =>
    simp only [ModeInv, hp] at hm
    obtain ⟨hn, ha⟩ := hm.2
    cases k
    · exact detachRx_modeInv (s := setHeld s .tx false) hn ha
    · exact ⟨fun _ => hn, .inl hn⟩
  | prepareHwStart hp hr | unprepareHwStart hp hr | prepareMsgStart hp hr =>
    have h := hm.noLeg_of_required hp (by simp) hr
    exact ⟨hl, h⟩
  | prepareHwRead hp | unprepareHwRead hp | flushMore hp | flushDiscard hp =>
    simp only [ModeInv, hp] at hm
    exact hm
  | prepareHwWrite hp | unprepareHwWrite hp | flushEmpty hp | flushTimeout hp =>
    simp only [ModeInv, hp] at hm
    exact ⟨hl, .inl hm.2.1⟩
  | calcUnwritten hp | calcOk hp | calcFail hp =>
    rcases hp with ⟨hp, -⟩ | hp <;> simp only [ModeInv, hp] at hm <;> exact hm
  | transferUnwritten hp | transferMalformed hp | transferLatch hp => exact ⟨hl, hm.transferStart hp⟩
  | transferNoRate hp => exact ⟨hl, .inl (hm.transferStart hp).1⟩
  | transferCpsr hp => exact ⟨hl, hm.transfer hp (by simp)⟩
  | transferCr0 hp =>
    have h := hm.transfer hp (by simp)
    rcases transferPathState_cases _ with he | he <;> rw [he]
    · exact ⟨hl, h⟩
    · exact ⟨fun hd => absurd (h.2.symm.trans hd) (by decide), rfl, rfl⟩
  | transferCr1Read hp =>
    simp only [ModeInv, hp] at hm
    exact hm
  | transferCr1Write hp =>
    simp only [ModeInv, hp] at hm
    exact ⟨hl, .inr (.inl hm.2)⟩
  | @transferDma _ k hp =>
    obtain ⟨hn, ha⟩ := hm.transfer hp (by simp)
    rcases dmaStep_cases k s with h | ⟨-, h⟩
    · have hlife : (dmaStep k s).life = .attached := by rw [h.frame.eq]; exact ha
      have hnone : NoLeg (dmaStep k s) := ⟨h.fsm.trans hn.1, h.legMode.trans hn.2⟩
      refine ⟨fun _ => hnone, ?_⟩
      rcases h.next with ⟨j, hj, -⟩ | ⟨hj, -⟩ <;> rw [hj]
      · exact ⟨hnone, hlife⟩
      · exact .inl hnone
    · rw [h]
      exact ⟨fun hd => absurd (ha.symm.trans hd) (by decide), .inr (.inr ⟨rfl, rfl⟩)⟩
  | engineDrain hi hp =>
    have h := hm.engine hi hp
    rcases runsEngine_cases hi with rfl | rfl <;> exact ⟨hl, h⟩
  | engineFill hi hp =>
    have h := hm.engine hi hp
    exact engineFilled_modeInv hi (hm.life_ne_detached (by rw [h.1]; decide)) h
  | enginePop hi hp hq =>
    have h := hm.engine hi hp
    obtain ⟨u, q, m, r, -, -, -, rfl, -⟩ := pop_ok hq
    rcases runsEngine_cases hi with rfl | rfl <;> exact ⟨hl, h⟩
  | enginePush hi hp hq =>
    have h := hm.engine hi hp
    obtain ⟨v, n, -, rfl⟩ := push_ok hq
    refine engineFilled_modeInv hi ?_ ?_
    · exact hm.life_ne_detached (by rw [h.1]; decide)
    · exact h
  | irqStart hp hf hmode =>
    exact ⟨hl, hf, hmode⟩
  | irqSpurious hp =>
    rcases hp with hp | hp <;> simp only [ModeInv, hp] at hm <;> exact hm
  | irqOverrun hp | irqEngine hp | irqCr1Read hp =>
    simp only [ModeInv, hp] at hm
    exact hm
  | irqIcr hp =>
    have h : LegOn .pio s := by simp only [ModeInv, hp] at hm; exact hm.2
    refine ⟨fun hd => absurd hd ?_, .inl rfl, h.2⟩
    exact hm.life_ne_detached (by rw [h.1]; decide)
  | irqCr1Write => exact ⟨fun _ => ⟨rfl, rfl⟩, .inl ⟨rfl, rfl⟩⟩
  | dmaDoneStart hp hf hmode => exact ⟨hl, hf, hmode⟩
  | dmaDoneEarly hp | dmaDoneSpurious hp =>
    rcases hp with hp | hp <;> simp only [ModeInv, hp] at hm <;> exact hm
  | dmaDoneUnmapRx hp =>
    simp only [ModeInv, hp] at hm
    exact hm
  | dmaDoneUnmapTx => rw [endLeg_dmaDone]; exact ⟨fun _ => ⟨rfl, rfl⟩, .inl ⟨rfl, rfl⟩⟩

/-- Settles O51: ModeInv is inductive, and its case Ready is the equivalence. -/
theorem modesStayLegal : Obligations.ModesStayLegal := by
  refine ⟨fun s t hm h => ?_, fun s hm hp => ?_⟩
  · exact step_keeps (fun i s t hm _ _ h => hm.block h) (fun s t hm h => hm.other h) hm h
  · simp only [ModeInv, hp] at hm
    rcases hm.2 with ⟨hf, hg⟩ | ⟨hf, hg⟩ | ⟨hf, hg⟩ <;> rw [hf, hg] <;> decide

end Sys2Proof.Machine
end

section
/-! SUPPORT. FIFOLVL, the queues and the cursors (R25, R26, R42, R45, R94). -/

namespace Sys2Proof.Machine

/-- A push belongs to an instruction that runs the engine. -/
theorem phaseOp_of_atPush {p : Phase} (h : atPush p = true) : ∃ i, runsEngine i = true ∧ phaseOp p = some i := by
  unfold atPush at h
  split at h
  · exact ⟨.transferOne, rfl, rfl⟩
  · exact ⟨.evtIrq, rfl, rfl⟩
  · cases h

theorem phaseOp_of_latched {p : Phase} (h : latched p = true) : phaseOp p = some .transferOne := by
  unfold latched at h
  split at h
  · cases h
  · rfl
  · cases h

theorem latched_of_inDmaStart {p : Phase} (h : inDmaStart p = true) : latched p = true := by
  unfold inDmaStart at h
  split at h
  · rfl
  · cases h

/-- An instruction that does not run the engine leaves PH at no push. -/
theorem BlockStep.not_atPush {i : Instr} {s t : State} (h : BlockStep i s t) (hi : runsEngine i = false) :
    atPush t.ph = false := by
  by_contra hc
  obtain ⟨j, hj, hp⟩ := phaseOp_of_atPush (Bool.eq_true_of_not_eq_false hc)
  rcases h.phase_next with ht | ht <;> rw [ht] at hp <;> cases hp
  exact absurd (hi.symm.trans hj) (by decide)

/-- An instruction other than TRANSFER_ONE leaves PH where no leg is latched. -/
theorem BlockStep.not_latched {i : Instr} {s t : State} (h : BlockStep i s t) (hi : i ≠ .transferOne) :
    latched t.ph = false := by
  by_contra hc
  have hp := phaseOp_of_latched (Bool.eq_true_of_not_eq_false hc)
  rcases h.phase_next with ht | ht <;> rw [ht] at hp <;> cases hp
  exact hi rfl

theorem atPush_engineAt {i : Instr} {k : EnginePos} (h : atPush (engineAt i k) = true) : k = .push := by
  cases i <;> cases k <;> simp_all [engineAt, atPush]

/-! ### FIFOLVL and the queues -/

theorem FifoInv.other {s t : State} (h : FifoInv s) (ho : OtherStep s t) : FifoInv t := by
  obtain ⟨hl, htx, hrx, hpush⟩ := h
  refine ⟨?_, ho.txq htx, ho.rxq hrx, ?_⟩ <;> rw [ho.frame]
  · exact hl
  · exact hpush

/-- At no push FifoInv is the three bounds, so it is kept where none of the three grows. -/
theorem FifoInv.shrink {s t : State} (h : FifoInv s) (hl : t.fifoLvl ≤ s.fifoLvl)
    (htx : t.ssp.txq.length ≤ s.ssp.txq.length) (hrx : t.ssp.rxq.length ≤ s.ssp.rxq.length) (hp : atPush t.ph = false) :
    FifoInv t :=
  ⟨hl.trans h.1, htx.trans h.2.1, hrx.trans h.2.2.1, fun hc => absurd (hp.symm.trans hc) (by decide)⟩

/-- The fill loop's test meets FifoInv: it goes to a push only where it holds (R90). -/
theorem engineFilled_fifoInv {i : Instr} {s : State} (hi : runsEngine i = true) (hl : s.fifoLvl ≤ fifoDepth)
    (htx : s.ssp.txq.length ≤ fifoDepth) (hrx : s.ssp.rxq.length ≤ fifoDepth) : FifoInv (engineFilled i s) := by
  rcases engineFilled_cases hi s with ⟨hf, h⟩ | ⟨-, h⟩ | ⟨-, -, h⟩ | ⟨-, h⟩ <;> rw [h]
  · exact ⟨hl, htx, hrx, fun _ => hf⟩
  · exact ⟨hl, htx, hrx, nofun⟩
  · exact ⟨hl, htx, hrx, nofun⟩
  · exact ⟨hl, htx, hrx, nofun⟩

/-- Six of the instructions write neither FIFOLVL nor a queue. -/
theorem FifoInv.quiet {i : Instr} {s t : State} (hf : FifoInv s) (h : BlockStep i s t)
    (hi : i ∈ [Instr.attach, .detach, .prepareHw, .unprepareHw, .calcDivisors, .evtDmaRxDone]) : FifoInv t := by
  refine hf.shrink ?_ ?_ ?_ (h.not_atPush (by fin_cases hi <;> rfl)) <;> rw [h.instrFrame.eq] <;> fin_cases hi <;>
    exact le_rfl

/-- Every step of an instruction keeps the counter and the queues within FIFO_DEPTH. -/
theorem FifoInv.block {i : Instr} {s t : State} (hi : FifoInv s) (h : BlockStep i s t) : FifoInv t := by
  have hblock := h
  have ⟨hl, htx, hrx, hpush⟩ := hi
  cases h with
  | badState | enginePopFault | enginePushFault | flushUnderflow => exact hi
  | flushEmpty => exact ⟨Nat.zero_le _, htx, hrx, nofun⟩
  | flushDiscard hp hq =>
    refine hi.shrink le_rfl le_rfl ?_ rfl
    simp only [moveTo_ssp, setSsp_ssp, hq, List.length_cons]
    omega
  | transferCr0 => rcases transferPathState_cases _ with h | h <;> rw [h] <;> exact ⟨hl, htx, hrx, nofun⟩
  | transferDma =>
    rcases dmaStep_cases _ s with h | ⟨-, h⟩
    · refine hi.shrink ?_ ?_ ?_ ?_
      · rw [h.frame.eq]; exact le_rfl
      · rw [h.frame.eq]; exact le_rfl
      · rw [h.frame.eq]; exact le_rfl
      · rcases h.next with ⟨j, hj, -⟩ | ⟨hj, -⟩ <;> rw [hj] <;> rfl
    · rw [h]; exact ⟨hl, htx, hrx, nofun⟩
  | engineDrain => exact ⟨hl, htx, hrx, fun hc => by cases atPush_engineAt hc⟩
  | engineFill hr => exact engineFilled_fifoInv hr hl htx hrx
  | enginePop hr hp hq =>
    obtain ⟨u, q, m, r, hrxq, -, -, rfl, -⟩ := pop_ok hq
    refine ⟨?_, htx, ?_, fun hc => by cases atPush_engineAt hc⟩
    · simp only [moveTo_fifoLvl]; omega
    · simp only [hrxq, List.length_cons, moveTo_ssp] at hrx ⊢; omega
  | enginePush hr hp hq =>
    obtain ⟨v, n, hlt, rfl⟩ := push_ok hq
    refine engineFilled_fifoInv hr ?_ ?_ hrx
    · have hf := hpush (by rw [hp]; rcases runsEngine_cases hr with rfl | rfl <;> rfl)
      simp only [fillMore, Bool.and_eq_true, decide_eq_true_eq] at hf
      exact hf.1
    · simp only [List.length_append, List.length_singleton]; omega
  | attachStart | attachFirst | attachRx | attachTx | attachReleased | detachStart | detachStep | prepareHwStart
  | prepareHwRead | prepareHwWrite | unprepareHwStart | unprepareHwRead | unprepareHwWrite | calcUnwritten | calcOk
  | calcFail | dmaDoneStart | dmaDoneEarly | dmaDoneSpurious | dmaDoneUnmapRx | dmaDoneUnmapTx =>
    exact hi.quiet hblock (by simp)
  | prepareMsgStart | flushTimeout | flushMore | transferUnwritten | transferMalformed | transferNoRate
  | transferLatch | transferCpsr | transferCr1Read | transferCr1Write | irqStart | irqSpurious | irqOverrun | irqEngine
  | irqIcr | irqCr1Read | irqCr1Write => exact ⟨hl, htx, hrx, nofun⟩

/-! ### The cursors -/

/-- Validate admits whole units of 4 to 16 bits (R88). -/
theorem legGeometry_of_requestValid {p : Params} {c : Word} {l : Leg} (h : requestValid p c l = true) : LegGeometry l := by
  simp only [requestValid, Bool.and_eq_true, decide_eq_true_eq, Bool.not_eq_true', Bool.and_eq_false_iff,
    decide_eq_false_iff_not, beq_eq_false_iff_ne] at h
  obtain ⟨⟨⟨⟨⟨h4, h16⟩, -⟩, hodd⟩, -⟩, -⟩ := h
  refine ⟨h4, h16, ?_⟩
  unfold legUnit unitOf
  split <;> omega

theorem legUnit_cases (l : Leg) : legUnit l = 1 ∨ legUnit l = 2 := by unfold legUnit unitOf; split <;> simp

/-- A cursor that stays within the leg does not wrap round (R94). -/
theorem advance_toNat {c : Word} {l : Leg} (h : c.toNat + legUnit l ≤ l.len.toNat) :
    (advance c l).toNat = c.toNat + legUnit l := by
  have hlen := l.len.isLt
  rw [advance, BitVec.toNat_add, BitVec.toNat_ofNat]
  rcases legUnit_cases l with hu | hu <;> rw [hu] at h ⊢ <;> omega

/-- A cursor on the unit that is below the length of whole units is a whole unit below it. -/
theorem add_unit_le {u c n : Nat} (hc : u ∣ c) (hn : u ∣ n) (h : c < n) : c + u ≤ n := by
  have := Nat.le_of_dvd (by omega) (Nat.dvd_sub hn hc)
  omega

theorem CursorInv.other {s t : State} (hc : CursorInv s) (ho : OtherStep s t) : CursorInv t := by
  rw [ho.frame]; exact hc

/-- Without a leg, and before one is latched, there is nothing to keep. -/
theorem cursorInv_of_noLeg {s : State} (hn : NoLeg s) (hp : latched s.ph = false) : CursorInv s := by
  have hl : latched s.ph ≠ true := by rw [hp]; decide
  refine ⟨?_, fun hf => absurd hn.1 hf, fun hm => ?_, fun hd => absurd (latched_of_inDmaStart hd) hl⟩
  · rintro (hf | h)
    · exact absurd hn.1 hf
    · exact absurd h hl
  · exact absurd (hn.2.symm.trans hm) (by decide)

/-- Where LEG, the cursors and the modes are kept and no leg is latched, CursorInv is kept. -/
theorem CursorInv.keep {s t : State} (hc : CursorInv s) (hleg : t.leg = s.leg) (hrxc : t.rxc = s.rxc)
    (htxc : t.txc = s.txc) (hfsm : t.fsm = s.fsm) (hmode : t.legMode = s.legMode) (hp : latched t.ph = false) :
    CursorInv t := by
  have hl : latched t.ph ≠ true := by rw [hp]; decide
  unfold CursorInv
  rw [hleg, hrxc, htxc, hfsm, hmode]
  exact ⟨fun h => hc.1 (.inl (h.resolve_right hl)), hc.2.1, hc.2.2.1, fun hd => absurd (latched_of_inDmaStart hd) hl⟩

/-- LEG and the cursors on a PIO leg. -/
def PioCursors (s : State) : Prop :=
  LegGeometry s.leg ∧ (s.rxc.toNat ≤ s.leg.len.toNat ∧ s.txc.toNat ≤ s.leg.len.toNat) ∧
    legUnit s.leg ∣ s.rxc.toNat ∧ legUnit s.leg ∣ s.txc.toNat

theorem CursorInv.pioCursors {s : State} (hc : CursorInv s) (hp : LegOn .pio s) : PioCursors s := by
  have hf : s.fsm ≠ .idle := by rw [hp.1]; decide
  exact ⟨hc.1 (.inl hf), hc.2.1 hf, hc.2.2.1 hp.2⟩

theorem PioCursors.cursorInv {s : State} (h : PioCursors s) (hp : inDmaStart s.ph = false) : CursorInv s :=
  ⟨fun _ => h.1, fun _ => h.2.1, fun _ => h.2.2, fun hd => absurd (hp.symm.trans hd) (by decide)⟩

theorem inDmaStart_engineAt (i : Instr) (k : EnginePos) : inDmaStart (engineAt i k) = false := by cases i <;> rfl

theorem PioCursors.engineFilled {i : Instr} {s : State} (hi : runsEngine i = true) (h : PioCursors s) :
    CursorInv (engineFilled i s) := by
  rcases engineFilled_cases hi s with ⟨-, he⟩ | ⟨-, he⟩ | ⟨-, -, he⟩ | ⟨-, he⟩ <;> rw [he]
  · exact PioCursors.cursorInv h (inDmaStart_engineAt i _)
  · exact PioCursors.cursorInv h rfl
  · exact PioCursors.cursorInv h rfl
  · exact PioCursors.cursorInv h rfl

theorem attachRelease_noLeg {s : State} (hn : NoLeg s) : NoLeg (attachRelease s) := by
  rcases attachRelease_cases s with ⟨-, h⟩ | ⟨-, h⟩ <;> rw [h]
  · exact hn
  · exact ⟨rfl, rfl⟩

/-- Every step of an instruction keeps the cursors within the leg and on its unit. -/
theorem CursorInv.block {i : Instr} {s t : State} (hm : ModeInv s) (hi : FifoInv s) (hc : CursorInv s)
    (h : BlockStep i s t) : CursorInv t := by
  have hframe := h.instrFrame.eq
  have hph := h.not_latched
  cases h with
  | badState | enginePopFault | enginePushFault | flushUnderflow => exact hc
  | attachStart => exact hc.keep rfl rfl rfl rfl rfl rfl
  | attachFirst hp | attachRx hp =>
    refine cursorInv_of_noLeg ?_ (hph (by decide))
    have hn := (hm.attach hp).1
    split
    · exact hn
    · exact attachRelease_noLeg hn
  | attachTx hp =>
    refine cursorInv_of_noLeg ?_ (hph (by decide))
    split
    · exact ⟨rfl, rfl⟩
    · exact attachRelease_noLeg (hm.attach hp).1
  | attachReleased => exact cursorInv_of_noLeg ⟨rfl, rfl⟩ rfl
  | detachStart | detachStep | prepareHwStart | prepareHwRead | prepareHwWrite | unprepareHwStart | unprepareHwRead
  | unprepareHwWrite | prepareMsgStart | flushEmpty | flushTimeout | flushMore | flushDiscard | calcUnwritten | calcOk
  | calcFail =>
    refine hc.keep ?_ ?_ ?_ ?_ ?_ (hph (by decide)) <;> rw [hframe] <;> rfl
  | transferUnwritten | transferMalformed => exact hc.keep rfl rfl rfl rfl rfl rfl
  | transferNoRate hp => exact cursorInv_of_noLeg (hm.transferStart hp).1 rfl
  | transferLatch hp _ hv =>
    obtain ⟨⟨hf, hmode⟩, -⟩ := hm.transferStart hp
    exact ⟨fun _ => legGeometry_of_requestValid hv, fun h => absurd hf h,
      fun h => absurd (hmode.symm.trans h) (by decide), nofun⟩
  | transferCpsr hp => exact ⟨fun _ => hc.1 (.inr (by rw [hp]; rfl)), hc.2.1, hc.2.2.1, nofun⟩
  | transferCr0 hp =>
    have hg := hc.1 (.inr (by rw [hp]; rfl))
    obtain ⟨⟨hf, hmode⟩, -⟩ := hm.transfer hp (by simp)
    rcases transferPathState_cases _ with h | h <;> rw [h]
    · exact ⟨fun _ => hg, fun h => absurd hf h, fun h => absurd (hmode.symm.trans h) (by decide), fun _ => ⟨rfl, rfl⟩⟩
    · exact ⟨fun _ => hg, fun _ => ⟨Nat.zero_le _, Nat.zero_le _⟩, fun _ => ⟨dvd_zero _, dvd_zero _⟩, nofun⟩
  | transferCr1Read hp | transferCr1Write hp =>
    have hleg : LegOn .pio s := by simp only [ModeInv, hp] at hm; exact hm.2
    exact PioCursors.cursorInv (hc.pioCursors hleg) rfl
  | @transferDma _ k hp =>
    obtain ⟨⟨hf, hmode⟩, -⟩ := hm.transfer hp (by simp)
    have hg := hc.1 (.inr (by rw [hp]; rfl))
    obtain ⟨hr, ht⟩ := hc.2.2.2 (by rw [hp]; rfl)
    rcases dmaStep_cases k s with h | ⟨-, h⟩
    · have hn : NoLeg (dmaStep k s) := ⟨h.fsm.trans hf, h.legMode.trans hmode⟩
      rcases h.next with ⟨j, hj, -⟩ | ⟨hj, -⟩
      · refine ⟨fun _ => ?_, fun h => absurd hn.1 h, fun h => absurd (hn.2.symm.trans h) (by decide), fun _ => ?_⟩ <;>
          rw [h.frame.eq]
        · exact hg
        · exact ⟨hr, ht⟩
      · exact cursorInv_of_noLeg hn (by rw [hj]; rfl)
    · rw [h]
      refine ⟨fun _ => hg, fun _ => ?_, nofun, nofun⟩
      show s.rxc.toNat ≤ s.leg.len.toNat ∧ s.txc.toNat ≤ s.leg.len.toNat
      rw [hr, ht]
      exact ⟨Nat.zero_le _, Nat.zero_le _⟩
  | engineDrain hr hp => exact PioCursors.cursorInv (hc.pioCursors (hm.engine hr hp)) (inDmaStart_engineAt _ _)
  | engineFill hr hp => exact (hc.pioCursors (hm.engine hr hp)).engineFilled hr
  | enginePop hr hp hq =>
    obtain ⟨hg, ⟨-, htx⟩, hdr, hdt⟩ := hc.pioCursors (hm.engine hr hp)
    obtain ⟨u, q, m, r, -, -, hle, rfl, -⟩ := pop_ok hq
    refine PioCursors.cursorInv (s := moveTo _ _) ⟨hg, ⟨?_, htx⟩, ?_, hdt⟩ (inDmaStart_engineAt _ _)
    · exact (advance_toNat hle).trans_le hle
    · exact (advance_toNat hle).symm ▸ hdr.add (dvd_refl _)
  | enginePush hr hp hq =>
    obtain ⟨hg, ⟨hrx, -⟩, hdr, hdt⟩ := hc.pioCursors (hm.engine hr hp)
    have hf := hi.2.2.2 (by rw [hp]; rcases runsEngine_cases hr with rfl | rfl <;> rfl)
    simp only [fillMore, Bool.and_eq_true, decide_eq_true_eq] at hf
    have hle := add_unit_le hdt hg.2.2 hf.2
    obtain ⟨v, n, -, rfl⟩ := push_ok hq
    refine PioCursors.engineFilled hr ⟨hg, ⟨hrx, ?_⟩, hdr, ?_⟩
    · exact (advance_toNat hle).trans_le hle
    · exact (advance_toNat hle).symm ▸ hdt.add (dvd_refl _)
  | irqStart | irqSpurious | irqOverrun | irqEngine | irqCr1Read | dmaDoneStart | dmaDoneEarly | dmaDoneSpurious
  | dmaDoneUnmapRx => exact hc.keep rfl rfl rfl rfl rfl rfl
  | irqIcr hp =>
    have hleg : LegOn .pio s := by simp only [ModeInv, hp] at hm; exact hm.2
    exact PioCursors.cursorInv (hc.pioCursors hleg) rfl
  | irqCr1Write => exact cursorInv_of_noLeg ⟨rfl, rfl⟩ rfl
  | dmaDoneUnmapTx => rw [endLeg_dmaDone]; exact cursorInv_of_noLeg ⟨rfl, rfl⟩ rfl

/-- Settles O53: with ModeInv both invariants are inductive. -/
theorem countersAndCursorsStayInRange : Obligations.CountersAndCursorsStayInRange := by
  intro s t hm hf hc h
  have hall : ModeInv t ∧ FifoInv t ∧ CursorInv t :=
    step_keeps (P := fun s => ModeInv s ∧ FifoInv s ∧ CursorInv s)
      (fun i s t ⟨hm, hf, hc⟩ _ _ h => ⟨hm.block h, hf.block h, hc.block hm hf h⟩)
      (fun s t ⟨hm, hf, hc⟩ h => ⟨hm.other h, hf.other h, hc.other h⟩) ⟨hm, hf, hc⟩ h
  exact hall.2

end Sys2Proof.Machine
end

section
/-! SUPPORT. Tables, descriptors and the callback at each PH (R101 to R106). -/

namespace Sys2Proof.Machine

/-- What is mapped, described and registered outside the DMA start and the last step of the completion (R106). -/
def DmaSettled (s : State) : Prop :=
  (s.legMode = .dma → DmaIs s true true .issued .issued true) ∧ (s.legMode ≠ .dma → DmaQuiet s)

/-- Is PH inside the DMA start, or between the two unmappings of the completion? -/
def dmaBusy : Phase → Bool
  | .transferOne (.dma _) | .evtDmaRxDone .unmapTx => true
  | _ => false

theorem dmaInv_iff_settled {s : State} (h : dmaBusy s.ph = false) : DmaInv s ↔ DmaSettled s := by
  unfold DmaInv
  split
  · rename_i k hk; rw [hk] at h; cases h
  · rename_i hk; rw [hk] at h; cases h
  · rfl

theorem phaseOp_of_dmaBusy {p : Phase} (h : dmaBusy p = true) :
    phaseOp p = some .transferOne ∨ phaseOp p = some .evtDmaRxDone := by
  unfold dmaBusy at h
  split at h
  · exact .inl rfl
  · exact .inr rfl
  · cases h

/-- PH is not inside the DMA start or its completion where another instruction, or none, is in execution. -/
theorem not_dmaBusy {i : Instr} {p : Phase} (h : p = .ready ∨ phaseOp p = some i)
    (hi : i ≠ .transferOne ∧ i ≠ .evtDmaRxDone) : dmaBusy p = false := by
  by_contra hc
  rcases phaseOp_of_dmaBusy (Bool.eq_true_of_not_eq_false hc) with hp | hp <;> rcases h with rfl | h
  · cases hp
  · exact hi.1 (Option.some.inj (h.symm.trans hp))
  · cases hp
  · exact hi.2 (Option.some.inj (h.symm.trans hp))

theorem DmaInv.other {s t : State} (h : DmaInv s) (ho : OtherStep s t) : DmaInv t := by
  rw [ho.frame]; exact h

theorem DmaSettled.quiet {s : State} (h : DmaSettled s) (hn : s.legMode = .none) : DmaQuiet s := h.2 (by rw [hn]; decide)

theorem DmaQuiet.settled {s : State} (h : DmaQuiet s) (hm : s.legMode ≠ .dma) : DmaSettled s :=
  ⟨fun hd => absurd hd hm, fun _ => h⟩

theorem dmaBusy_engineAt (i : Instr) (k : EnginePos) : dmaBusy (engineAt i k) = false := by cases i <;> rfl

theorem engineFilled_dmaInv {i : Instr} {s : State} (hi : runsEngine i = true) (h : DmaSettled s) :
    DmaInv (engineFilled i s) := by
  rcases engineFilled_cases hi s with ⟨-, he⟩ | ⟨-, he⟩ | ⟨-, -, he⟩ | ⟨-, he⟩ <;> rw [he]
  · exact (dmaInv_iff_settled (dmaBusy_engineAt i _)).2 h
  · exact h
  · exact h
  · exact h

theorem attachTail_dmaInv (s : State) : DmaInv (attachTail s) := ⟨nofun, fun _ => ⟨rfl, rfl, rfl, rfl, rfl⟩⟩

theorem attachRelease_dmaInv {s : State} (h : DmaSettled s) : DmaInv (attachRelease s) := by
  rcases attachRelease_cases s with ⟨-, he⟩ | ⟨-, he⟩ <;> rw [he]
  · exact h
  · exact attachTail_dmaInv _

/-- Five of the instructions write no table, no descriptor and no mode. -/
theorem DmaInv.frame {i : Instr} {s t : State} (hd : DmaInv s) (h : BlockStep i s t)
    (hi : i ∈ [Instr.detach, .prepareHw, .unprepareHw, .prepareMsg, .calcDivisors]) : DmaInv t := by
  have hne : i ≠ .transferOne ∧ i ≠ .evtDmaRxDone := by fin_cases hi <;> decide
  have hs := (dmaInv_iff_settled (not_dmaBusy h.phase_at hne)).1 hd
  refine (dmaInv_iff_settled (not_dmaBusy h.phase_next hne)).2 ?_
  rw [h.instrFrame.eq]
  fin_cases hi <;> exact hs

/-- Every step of an instruction keeps DmaInv: the DMA start goes from position to position, and the completion undoes it. -/
theorem DmaInv.block {i : Instr} {s t : State} (hm : ModeInv s) (hd : DmaInv s) (h : BlockStep i s t) : DmaInv t := by
  have hblock := h
  have settled : dmaBusy s.ph = false → DmaSettled s := fun hp => (dmaInv_iff_settled hp).1 hd
  cases h with
  | badState | flushUnderflow | enginePopFault | enginePushFault => exact hd
  | attachStart hp => exact settled (by rw [hp]; rfl)
  | attachFirst hp | attachRx hp =>
    have hs := settled (by rw [hp]; rfl)
    split
    · exact hs
    · exact attachRelease_dmaInv hs
  | attachTx hp =>
    split
    · exact attachTail_dmaInv _
    · exact attachRelease_dmaInv (settled (by rw [hp]; rfl))
  | attachReleased => exact attachTail_dmaInv _
  | detachStart | detachStep | prepareHwStart | prepareHwRead | prepareHwWrite | unprepareHwStart | unprepareHwRead
  | unprepareHwWrite | prepareMsgStart | flushEmpty | flushTimeout | flushMore | flushDiscard | calcUnwritten | calcOk
  | calcFail => exact hd.frame hblock (by simp)
  | transferUnwritten hp | transferMalformed hp | transferNoRate hp | transferLatch hp =>
    exact settled (by rcases hp with ⟨hp, -⟩ | hp <;> rw [hp] <;> rfl)
  | transferCpsr hp | transferCr1Read hp | transferCr1Write hp => exact settled (by rw [hp]; rfl)
  | transferCr0 hp =>
    have hq := (settled (by rw [hp]; rfl)).quiet (hm.transfer hp (by simp)).1.2
    rcases transferPathState_cases _ with h | h <;> rw [h]
    · exact hq
    · exact ⟨nofun, fun _ => hq⟩
  | @transferDma _ k hp =>
    have hk : DmaStartInv k s := by simp only [DmaInv, hp] at hd; exact hd
    rcases dmaStep_cases k s with h | ⟨rfl, h⟩
    · rcases h.next with ⟨j, hj, hi⟩ | ⟨hj, hq⟩
      · simp only [DmaInv, hj]; exact hi hk
      · refine (dmaInv_iff_settled (by rw [hj]; rfl)).2 ((hq hk).settled ?_)
        rw [h.legMode, (hm.transfer hp (by simp)).1.2]
        decide
    · rw [h]
      obtain ⟨hr, ht, hrd, -, hcb⟩ := hk
      exact ⟨fun _ => ⟨hr, ht, hrd, rfl, hcb⟩, fun h => absurd rfl h⟩
  | engineDrain hi hp =>
    exact (dmaInv_iff_settled (dmaBusy_engineAt i _)).2 (settled (by rw [hp]; exact dmaBusy_engineAt i _))
  | engineFill hi hp => exact engineFilled_dmaInv hi (settled (by rw [hp]; exact dmaBusy_engineAt i _))
  | enginePop hi hp hq =>
    have hs := settled (by rw [hp]; exact dmaBusy_engineAt i _)
    obtain ⟨u, q, m, r, -, -, -, rfl, -⟩ := pop_ok hq
    exact (dmaInv_iff_settled (dmaBusy_engineAt i _)).2 hs
  | enginePush hi hp hq =>
    have hs := settled (by rw [hp]; exact dmaBusy_engineAt i _)
    obtain ⟨v, n, -, rfl⟩ := push_ok hq
    exact engineFilled_dmaInv hi hs
  | irqStart hp | irqSpurious hp | dmaDoneStart hp | dmaDoneEarly hp | dmaDoneSpurious hp =>
    exact settled (by rcases hp with hp | hp <;> rw [hp] <;> rfl)
  | irqOverrun hp | irqEngine hp | irqIcr hp | irqCr1Read hp => exact settled (by rw [hp]; rfl)
  | irqCr1Write hp =>
    have hpio : s.legMode = .pio := by simp only [ModeInv, hp] at hm; exact hm.2.2
    have hq := (settled (by rw [hp]; rfl)).2 (by rw [hpio]; decide)
    exact ⟨nofun, fun _ => hq⟩
  | dmaDoneUnmapRx hp =>
    have hleg : LegOn .dma s := by simp only [ModeInv, hp] at hm; exact hm.2
    obtain ⟨-, h⟩ := (settled (by rw [hp]; rfl)).1 hleg.2
    exact ⟨rfl, h⟩
  | dmaDoneUnmapTx hp =>
    simp only [DmaInv, hp] at hd
    obtain ⟨hr, -⟩ := hd
    rw [endLeg_dmaDone]
    exact ⟨nofun, fun _ => ⟨hr, rfl, rfl, rfl, rfl⟩⟩

end Sys2Proof.Machine
end

section
/-! SUPPORT. The pending callback (R124) and the resources (R32). -/

namespace Sys2Proof.Machine

/-! ### The pending callback -/

/-- The callback is pending only for an issued receive channel (R124). -/
theorem PendInv.pendRx_eq_false {s : State} (hp : PendInv s) (hd : s.rx.desc ≠ .issued) : s.pendRx = false := by
  by_contra hc
  exact hd (hp.1 (Bool.eq_true_of_not_eq_false hc)).1

theorem PendInv.other {s t : State} (hp : PendInv s) (ho : OtherStep s t) : PendInv t := by
  obtain ⟨hpend, hdone, hstart⟩ := hp
  have hph : t.ph = s.ph := by rw [ho.frame]; rfl
  have hdesc : t.rx.desc = s.rx.desc := by rw [ho.frame]; rfl
  have hsegs : t.rx.segs = s.rx.segs := by rw [ho.frame]; rfl
  unfold PendInv
  rw [hph, hdesc, hsegs]
  refine ⟨fun h => ?_, fun h => ?_, fun h => ?_⟩
  · rcases ho.rxMoves with ⟨hq, hmoved⟩ | ⟨hi, hlt, hset⟩
    · rw [hmoved]; exact hpend (hq.symm.trans h)
    · rcases hset h with hs | hle
      · exact absurd (hpend hs).2 (by omega)
      · exact ⟨hi, hle⟩
  · obtain ⟨hq, hle⟩ := hdone h
    rcases ho.rxMoves with ⟨ht, hmoved⟩ | ⟨-, hlt, -⟩
    · rw [ht, hmoved]; exact ⟨hq, hle⟩
    · omega
  · rcases ho.faults with ⟨hf, -⟩ | ⟨r, hf, -⟩ <;> rw [hf]
    · exact hstart h
    · exact addReason_ne_nil r _

/-- Outside EVT_DMA_RX_DONE only its first clause says anything. -/
theorem pendInv_of_phase {i : Instr} {s : State} (hp : s.ph = .ready ∨ phaseOp s.ph = some i) (hi : i ≠ .evtDmaRxDone)
    (h : s.pendRx = true → s.rx.desc = .issued ∧ segTotal s.rx.segs ≤ s.rx.moved) : PendInv s := by
  have hne : ∀ k, s.ph ≠ .evtDmaRxDone k := fun k hk => by
    rw [hk] at hp
    rcases hp with hp | hp <;> cases hp
    exact hi rfl
  exact ⟨h, fun hc => absurd hc (by simp [hne]), fun hc => absurd hc (hne _)⟩

/-- An instruction other than EVT_DMA_RX_DONE leaves the receive channel as it was, or finds it not issued (R102, R106). -/
theorem BlockStep.rx_kept {i : Instr} {s t : State} (hm : ModeInv s) (hd : DmaInv s) (h : BlockStep i s t)
    (hi : i ≠ .evtDmaRxDone) : t.rx = s.rx ∨ s.rx.desc ≠ .issued := by
  have idle : dmaBusy s.ph = false → s.legMode = .none → s.rx.desc ≠ .issued := fun hp hn => by
    obtain ⟨-, -, hdesc, -⟩ := ((dmaInv_iff_settled hp).1 hd).quiet hn
    rw [hdesc]; decide
  cases h with
  | badState | attachStart => exact .inl rfl
  | attachFirst hp | attachRx hp | attachTx hp | attachReleased hp =>
    exact .inr (idle (by rw [hp]; rfl) (hm.attach hp).1.2)
  | detachStart hp hr => exact .inr (idle (by rw [hp]; rfl) (hm.noLeg_of_detach hp hr).2)
  | detachStep hp =>
    have hn : NoLeg s := by simp only [ModeInv, hp] at hm; exact hm.2.1
    exact .inr (idle (by rw [hp]; rfl) hn.2)
  | transferCr0 => rcases transferPathState_cases _ with h | h <;> rw [h] <;> exact .inl rfl
  | @transferDma _ k hp =>
    by_cases hk : k = .issue .tx
    · subst hk; exact .inl rfl
    · have hs : DmaStartInv k s := by simp only [DmaInv, hp] at hd; exact hd
      exact .inr (hs.rx_desc_ne_issued hk)
  | engineFill hr =>
    obtain ⟨f, p, hu⟩ := engineFilled_eq hr s
    exact .inl (congrArg State.rx hu :)
  | enginePop hr _ hq =>
    obtain ⟨u, q, m, r, -, -, -, rfl, -⟩ := pop_ok hq
    exact .inl rfl
  | enginePush hr _ hq =>
    obtain ⟨v, n, -, rfl⟩ := push_ok hq
    obtain ⟨f, p, hu⟩ := engineFilled_eq hr { s with
      ssp := { s.ssp with txq := s.ssp.txq ++ [v] }, draws := n, txc := advance s.txc s.leg, fifoLvl := s.fifoLvl + 1 }
    exact .inl (congrArg State.rx hu :)
  | prepareHwStart | prepareHwRead | prepareHwWrite | unprepareHwStart | unprepareHwRead | unprepareHwWrite
  | prepareMsgStart | flushEmpty | flushTimeout | flushMore | flushDiscard | flushUnderflow | calcUnwritten | calcOk
  | calcFail | transferUnwritten | transferMalformed | transferNoRate | transferLatch | transferCpsr | transferCr1Read
  | transferCr1Write | engineDrain | enginePopFault | enginePushFault | irqStart | irqSpurious | irqOverrun | irqEngine
  | irqIcr | irqCr1Read | irqCr1Write => exact .inl rfl
  | dmaDoneStart | dmaDoneEarly | dmaDoneSpurious | dmaDoneUnmapRx | dmaDoneUnmapTx => exact absurd rfl hi

/-- No instruction but EVT_DMA_RX_DONE writes PEND_RX (R104). -/
theorem BlockStep.pendRx_kept {i : Instr} {s t : State} (h : BlockStep i s t) (hi : i ≠ .evtDmaRxDone) :
    t.pendRx = s.pendRx := by
  rw [h.instrFrame.eq]
  cases i with
  | evtDmaRxDone => exact absurd rfl hi
  | _ => rfl

/-- The completion is taken only once the whole table has moved (R104, R119, R124). -/
theorem PendInv.done_of_offered {s : State} (hp : PendInv s) (hf : s.faults = []) (ho : Offered .evtDmaRxDone s)
    (hph : s.ph = .ready ∨ s.ph = .evtDmaRxDone .start) : segTotal s.rx.segs ≤ s.rx.moved := by
  rcases hph with hph | hph
  · exact (hp.1 (ho hph rfl)).2
  · exact absurd hf (hp.2.2 hph)

/-- EVT_DMA_RX_DONE consumes the callback and finds the whole table moved (R104). -/
theorem PendInv.done {s t : State} (hp : PendInv s) (hf : s.faults = []) (ho : Offered .evtDmaRxDone s)
    (h : BlockStep .evtDmaRxDone s t) : PendInv t := by
  cases h with
  | badState hph => exact pendInv_of_phase (i := .attach) (.inl hph) (by decide) hp.1
  | dmaDoneStart hph => exact ⟨nofun, fun _ => ⟨rfl, hp.done_of_offered hf ho hph⟩, nofun⟩
  | dmaDoneEarly => exact ⟨nofun, by simp, fun _ => addReason_ne_nil _ _⟩
  | dmaDoneSpurious => exact ⟨hp.1, by simp, fun _ => addReason_ne_nil _ _⟩
  | dmaDoneUnmapRx hph =>
    obtain ⟨hq, hle⟩ := hp.2.1 (.inl hph)
    exact ⟨fun h => absurd (hq.symm.trans h) (by decide), fun _ => ⟨hq, hle⟩, nofun⟩
  | dmaDoneUnmapTx hph =>
    obtain ⟨hq, -⟩ := hp.2.1 (.inr hph)
    rw [endLeg_dmaDone]
    exact ⟨fun h => absurd (hq.symm.trans h) (by decide), by simp, nofun⟩
  | engineDrain hr | engineFill hr | enginePop hr | enginePopFault hr | enginePush hr | enginePushFault hr => cases hr

theorem PendInv.block {i : Instr} {s t : State} (hm : ModeInv s) (hd : DmaInv s) (hp : PendInv s) (hf : s.faults = [])
    (ho : Offered i s) (h : BlockStep i s t) : PendInv t := by
  by_cases hi : i = .evtDmaRxDone
  · subst hi; exact hp.done hf ho h
  · refine pendInv_of_phase h.phase_next hi ?_
    rw [h.pendRx_kept hi]
    rcases h.rx_kept hm hd hi with hrx | hdesc
    · rw [hrx]; exact hp.1
    · rw [hp.pendRx_eq_false hdesc]; exact nofun

/-! ### The resources -/

/-- The resources outside ATTACH and DETACH: all three held or none, and none while detached (R32). -/
def ResourcesSettled (s : State) : Prop :=
  (s.life = .detached → s.dmaAv = false) ∧ Holds s s.dmaAv s.dmaAv s.dmaAv s.dmaAv

theorem resourceInv_iff_settled {s : State} (ha : ∀ k, s.ph ≠ .attach k) (hd : ∀ k, s.ph ≠ .detach k) :
    ResourceInv s ↔ ResourcesSettled s := by
  unfold ResourceInv
  split
  · exact absurd ‹_› (ha _)
  · exact absurd ‹_› (ha _)
  · exact absurd ‹_› (ha _)
  · exact absurd ‹_› (ha _)
  · exact absurd ‹_› (hd _)
  · exact absurd ‹_› (hd _)
  · rfl

theorem ResourceInv.other {s t : State} (h : ResourceInv s) (ho : OtherStep s t) : ResourceInv t := by
  rw [ho.frame]; exact h

/-- No other instruction writes a resource, or is in execution in ATTACH or DETACH. -/
theorem ResourceInv.frame {i : Instr} {s t : State} (hr : ResourceInv s) (h : BlockStep i s t)
    (hi : i ≠ .attach ∧ i ≠ .detach) : ResourceInv t := by
  have outside : ∀ {p}, p = .ready ∨ phaseOp p = some i → (∀ k, p ≠ .attach k) ∧ ∀ k, p ≠ .detach k := by
    rintro p (rfl | hp)
    · simp
    · constructor <;> rintro k rfl <;> cases hp
      · exact hi.1 rfl
      · exact hi.2 rfl
  obtain ⟨ha, hd⟩ := outside h.phase_at
  obtain ⟨ha', hd'⟩ := outside h.phase_next
  have hs := (resourceInv_iff_settled ha hd).1 hr
  refine (resourceInv_iff_settled ha' hd').2 ?_
  rw [h.instrFrame.eq]
  cases i with
  | attach => exact absurd rfl hi.1
  | detach => exact absurd rfl hi.2
  | _ => exact hs

theorem attachPio_resourceInv {s : State} (hr : s.rx.held = false) (ht : s.tx.held = false) : ResourceInv (attachPio s) :=
  ⟨nofun, rfl, hr, ht, rfl⟩

theorem attachRelease_resourceInv {s : State} (ht : s.tx.held = false) (hd : s.dmaAv = false) :
    ResourceInv (attachRelease s) := by
  rcases attachRelease_cases s with ⟨hr, h⟩ | ⟨hr, h⟩ <;> rw [h]
  · exact ⟨hr, ht, hd⟩
  · exact attachPio_resourceInv hr ht

/-- ATTACH obtains all three resources or releases what it obtained (R81). -/
theorem ResourceInv.attach {s t : State} (hr : ResourceInv s) (h : BlockStep .attach s t) : ResourceInv t := by
  cases h with
  | badState => exact hr
  | attachStart hp hl =>
    simp only [ResourceInv, hp] at hr
    obtain ⟨hav, h⟩ := hr
    rw [hav hl] at h
    exact h
  | attachFirst hp =>
    simp only [ResourceInv, hp] at hr
    obtain ⟨-, hrx, htx, hd⟩ := hr
    split
    · exact ⟨rfl, hrx, htx, hd⟩
    · exact attachRelease_resourceInv htx hd
  | attachRx hp =>
    simp only [ResourceInv, hp] at hr
    obtain ⟨hv, -, htx, hd⟩ := hr
    split
    · exact ⟨hv, rfl, htx, hd⟩
    · exact attachRelease_resourceInv htx hd
  | attachTx hp =>
    simp only [ResourceInv, hp] at hr
    obtain ⟨hv, hrx, htx, hd⟩ := hr
    split
    · exact ⟨nofun, hv, hrx, rfl, rfl⟩
    · exact attachRelease_resourceInv htx hd
  | attachReleased hp =>
    simp only [ResourceInv, hp] at hr
    exact attachPio_resourceInv rfl hr.2.1
  | engineDrain hr | engineFill hr | enginePop hr | enginePopFault hr | enginePush hr | enginePushFault hr => cases hr

theorem detachTail_resourceInv {s : State} (hr : s.rx.held = false) (ht : s.tx.held = false) :
    ResourceInv (detachTail s) :=
  ⟨fun _ => rfl, rfl, hr, ht, rfl⟩

/-- DETACH releases what is held (R82). -/
theorem ResourceInv.detach {s t : State} (hr : ResourceInv s) (h : BlockStep .detach s t) : ResourceInv t := by
  cases h with
  | badState => exact hr
  | detachStart hp =>
    simp only [ResourceInv, hp] at hr
    obtain ⟨hl, hv, hrx, htx, -⟩ := hr
    rcases detachStart_cases s with ⟨-, h⟩ | ⟨-, ht, h⟩ | ⟨-, ht, h⟩ <;> rw [h]
    · exact ⟨hl, hv, hrx, htx, rfl⟩
    · have hd := htx.symm.trans ht
      exact ⟨hv.trans hd, hrx.trans hd, ht, hd⟩
    · have hd := hrx.trans (htx.symm.trans ht)
      rcases detachRx_cases s with ⟨hc, h⟩ | ⟨-, h⟩ <;> rw [h]
      · exact absurd (hd.symm.trans hc) (by decide)
      · exact detachTail_resourceInv hd ht
  | @detachStep _ k hp =>
    cases k with
    | releaseTx =>
      simp only [ResourceInv, hp] at hr
      obtain ⟨hv, hrx, -, hd⟩ := hr
      rcases detachRx_cases (setHeld s .tx false) with ⟨hc, h⟩ | ⟨hc, h⟩
      · show ResourceInv (detachRx (setHeld s .tx false))
        rw [h]
        exact ⟨hv, hrx, rfl, hd⟩
      · exact absurd (hrx.symm.trans hc) (by decide)
    | releaseRx =>
      simp only [ResourceInv, hp] at hr
      obtain ⟨-, -, htx, -⟩ := hr
      exact detachTail_resourceInv rfl htx
  | engineDrain hr | engineFill hr | enginePop hr | enginePopFault hr | enginePush hr | enginePushFault hr => cases hr

theorem ResourceInv.block {i : Instr} {s t : State} (hr : ResourceInv s) (h : BlockStep i s t) : ResourceInv t := by
  by_cases ha : i = .attach
  · subst ha; exact hr.attach h
  · by_cases hd : i = .detach
    · subst hd; exact hr.detach h
    · exact hr.frame h ⟨ha, hd⟩

/-- Settles O54: DmaInv and PendInv are inductive together with ModeInv, and ResourceInv is by itself. -/
theorem dmaResourcesStayConsistent : Obligations.DmaResourcesStayConsistent := by
  refine ⟨fun s t hm hd hp h => ?_, fun s t _ hr h => ?_, fun s hr ha hd => ?_⟩
  · have hall : ModeInv t ∧ DmaInv t ∧ PendInv t :=
      step_keeps (P := fun s => ModeInv s ∧ DmaInv s ∧ PendInv s)
        (fun i s t ⟨hm, hd, hp⟩ hf ho h => ⟨hm.block h, hd.block hm h, hp.block hm hd hf ho h⟩)
        (fun s t ⟨hm, hd, hp⟩ h => ⟨hm.other h, hd.other h, hp.other h⟩) ⟨hm, hd, hp⟩ h
    exact hall.2
  · exact step_keeps (fun i s t hr _ _ h => hr.block h) (fun s t hr h => hr.other h) hr h
  · obtain ⟨hl, hv, hrx, htx, -⟩ := (resourceInv_iff_settled ha hd).1 hr
    exact ⟨hv, hrx, htx, fun h => ⟨hl h, hv.trans (hl h), hrx.trans (hl h), htx.trans (hl h)⟩⟩

end Sys2Proof.Machine
end

section
/-! SUPPORT. Who stores to memory (R46, R54, R92), and its canonical form under every agent's step (R46, R47). -/

namespace Sys2Proof.Machine

/-- Memory and the lists of raced and unsettled addresses are the same. -/
def SameMem (s t : State) : Prop := t.mem = s.mem ∧ t.raced = s.raced ∧ t.unsettled = s.unsettled

theorem SameMem.memInv {s t : State} (h : SameMem s t) (hi : MemInv s) : MemInv t := by
  obtain ⟨hm, hr, hu⟩ := h
  unfold MemInv
  rw [hm, hr, hu]
  exact hi

/-- A step of an instruction leaves memory alone unless it is a pop that succeeds (R54, R92). -/
theorem BlockStep.sameMem_or_pop {i : Instr} {s t : State} (h : BlockStep i s t) :
    SameMem s t ∨
      (runsEngine i = true ∧ s.ph = engineAt i .pop ∧ ∃ u, pop s = .ok u ∧ t = moveTo (engineAt i .sr) u) := by
  have frame (hi : runsEngine i = false) : SameMem s t := by
    rw [h.instrFrame.eq]
    cases i with
    | transferOne | evtIrq => cases hi
    | _ => exact ⟨rfl, rfl, rfl⟩
  cases h with
  | enginePop hi hp hq => exact .inr ⟨hi, hp, _, hq, rfl⟩
  | enginePush hi _ hq =>
    obtain ⟨v, n, -, rfl⟩ := push_ok hq
    obtain ⟨f, p, hu⟩ := engineFilled_eq hi { s with
      ssp := { s.ssp with txq := s.ssp.txq ++ [v] }, draws := n, txc := advance s.txc s.leg, fifoLvl := s.fifoLvl + 1 }
    rw [hu]
    exact .inl ⟨rfl, rfl, rfl⟩
  | engineFill hi =>
    obtain ⟨f, p, hu⟩ := engineFilled_eq hi s
    rw [hu]
    exact .inl ⟨rfl, rfl, rfl⟩
  | transferCr0 => rcases transferPathState_cases _ with h | h <;> rw [h] <;> exact .inl ⟨rfl, rfl, rfl⟩
  | transferDma => rw [(dmaStep_dmaFrame _ s).eq]; exact .inl ⟨rfl, rfl, rfl⟩
  | badState | transferUnwritten | transferMalformed | transferNoRate | transferLatch | transferCpsr | transferCr1Read
  | transferCr1Write | engineDrain | enginePopFault | enginePushFault | irqStart | irqSpurious | irqOverrun | irqEngine
  | irqIcr | irqCr1Read | irqCr1Write => exact .inl ⟨rfl, rfl, rfl⟩
  | attachStart | attachFirst | attachRx | attachTx | attachReleased | detachStart | detachStep | prepareHwStart
  | prepareHwRead | prepareHwWrite | unprepareHwStart | unprepareHwRead | unprepareHwWrite | prepareMsgStart
  | flushEmpty | flushTimeout | flushMore | flushDiscard | flushUnderflow | calcUnwritten | calcOk | calcFail
  | dmaDoneStart | dmaDoneEarly | dmaDoneSpurious | dmaDoneUnmapRx | dmaDoneUnmapTx => exact .inl (frame rfl)

/-- Settles O29: a step that is no pop keeps memory, and a pop stores its unit alone. -/
theorem onlyPopStores : Obligations.OnlyPopStores := by
  intro i s t a hi h hpop
  obtain ⟨-, hb⟩ := exec_next h
  rcases hb.sameMem_or_pop with ⟨hm, -⟩ | ⟨hr, hp, u, hu, rfl⟩
  · rw [hm]
  · obtain ⟨v, q, m, r, -, -, -, rfl, -, -, hnone, hout⟩ := pop_ok hu
    show Memory.read m a = Memory.read s.mem a
    cases hrxp : s.leg.rxp with
    | false => rw [(hnone hrxp).1]
    | true =>
      refine hout hi.1 a ?_
      by_contra hin
      exact hpop ⟨hr, hp, hrxp, by omega, by omega⟩

/-- Every step of an instruction keeps the canonical form: the one that stores is a pop, which keeps it (R92). -/
theorem BlockStep.memInv {i : Instr} {s t : State} (h : BlockStep i s t) (hi : MemInv s) : MemInv t := by
  rcases h.sameMem_or_pop with hm | ⟨-, -, u, hu, rfl⟩
  · exact hm.memInv hi
  · obtain ⟨-, -, -, -, -, -, -, -, hkeep, -⟩ := pop_ok hu
    exact hkeep hi

/-- Every action keeps the canonical form: beside BLOCK only HOST and DMA_RX write memory (R56, R124). -/
theorem AgentStep.memInv {a : Action} {s t : State} (h : AgentStep a s t) (hi : MemInv s) : MemInv t := by
  cases h with
  | idle | blockIdle | illegalCommand | argWrite | illegalAccess | hostRead | shift => exact hi
  | block _ _ hb => exact hb.memInv hi
  | event _ _ _ hb | command _ _ _ hb => exact hb.memInv hi
  | hostMemWrite hw => exact hw hi
  | dmaTx =>
    rcases dmaTxStep_cases s with h | ⟨-, -, -, v, n, h⟩ <;> rw [h] <;> exact hi
  | dmaRx =>
    rcases dmaRxStep_cases s with h | ⟨-, -, u, q, m, r, -, -, -, hkeep⟩
    · rw [h]; exact hi
    · exact hkeep hi
  | clock =>
    rcases clockStep_cases s with h | ⟨-, h⟩ <;> rw [h] <;> exact hi

/-- Settles O49: MemInv is kept by the action of every agent, and taking the action touches no memory. -/
theorem memoryStaysCanonical : Obligations.MemoryStaysCanonical := by
  intro s t hi h
  obtain ⟨l, n, ha⟩ := step_next h
  exact ha.memInv hi

end Sys2Proof.Machine
end

section
/-! SUPPORT. CR1 follows the block (R58, R83, R84, R95, R102, R110): Cr1Inv cut into what does not name PH and what PH
adds, so that each step of an instruction is one position's goal. -/

namespace Sys2Proof.Machine

/-! ### The bits of CR1 -/

/-- Setting SSE keeps the interrupt enables (R83). -/
theorem or_sseMask_irqEn (v : Word) : (v ||| sseMask) &&& irqEnMask = v &&& irqEnMask := by
  rw [BitVec.and_or_distrib_right]
  exact BitVec.or_zero

/-- Clearing SSE keeps the interrupt enables (R84). -/
theorem andNot_sseMask_irqEn (v : Word) : (v &&& ~~~sseMask) &&& irqEnMask = v &&& irqEnMask := BitVec.and_assoc ..

/-- The PIO arm sets all three interrupt enables (R95). -/
theorem or_irqEnMask_irqEn (v : Word) : (v ||| irqEnMask) &&& irqEnMask = irqEnMask := by
  ext i hi
  simp only [BitVec.getElem_and, BitVec.getElem_or, Bool.and_eq_right_iff_imp, Bool.or_eq_true]
  exact .inr

/-- Finish clears all three interrupt enables (R110). -/
theorem andNot_irqEnMask_irqEn (v : Word) : (v &&& ~~~irqEnMask) &&& irqEnMask = 0 := by
  rw [BitVec.and_assoc]
  exact BitVec.and_zero

theorem or_sseMask_sse (v : Word) : (v ||| sseMask).getLsbD 4 = true := by simp [sseMask]

/-- Setting the interrupt enables keeps SSE. -/
theorem or_irqEnMask_sse (v : Word) : (v ||| irqEnMask).getLsbD 4 = v.getLsbD 4 := by simp [irqEnMask]

/-- Clearing the interrupt enables keeps SSE. -/
theorem andNot_irqEnMask_sse (v : Word) : (v &&& ~~~irqEnMask).getLsbD 4 = v.getLsbD 4 := by simp [irqEnMask]

/-! ### The invariant at a position -/

/-- What Cr1Inv says whatever PH is: no enable but on a PIO leg, SSE while prepared, a leg only while prepared. -/
def Cr1Core (s : State) : Prop :=
  (s.life = .attached → s.legMode ≠ .pio → s.ssp.cr1 &&& irqEnMask = 0) ∧
    (s.hwp = true → s.life = .attached ∧ s.ssp.cr1.getLsbD 4 = true) ∧ (s.fsm ≠ .idle → s.hwp = true)

/-- What Cr1Inv adds where PH stands at p. -/
def Cr1At (p : Phase) (s : State) : Prop :=
  (irqArmed p = true → s.legMode = .pio → s.ssp.cr1 &&& irqEnMask = irqEnMask) ∧
    (s.hwp = true → inDetach p = false) ∧ (inTransfer p = true → s.hwp = true) ∧
    (∀ v, heldCr1 p = some v → v = s.ssp.cr1) ∧ (attachCleared p = true → s.ssp.cr1 = 0)

theorem cr1Inv_iff {s : State} : Cr1Inv s ↔ Cr1Core s ∧ Cr1At s.ph s := by
  constructor
  · rintro ⟨hen, harm, hsse, hleg, hheld, hclear⟩
    exact ⟨⟨hen, fun h => ⟨(hsse h).1, (hsse h).2.2⟩, fun h => hleg (.inl h)⟩, harm, fun h => (hsse h).2.1,
      fun h => hleg (.inr h), hheld, hclear⟩
  · rintro ⟨⟨hen, hsse, hleg⟩, harm, hdetach, htransfer, hheld, hclear⟩
    exact ⟨hen, harm, fun h => ⟨(hsse h).1, hdetach h, (hsse h).2⟩, fun h => h.elim hleg htransfer, hheld, hclear⟩

/-- A position at which PH adds no more than the armed enables (R95). -/
def cr1Plain (p : Phase) : Bool := !inDetach p && !inTransfer p && (heldCr1 p).isNone && !attachCleared p

theorem cr1Inv_of_plain {s : State} (hp : cr1Plain s.ph = true) (h : Cr1Core s)
    (ha : s.legMode = .pio → s.ssp.cr1 &&& irqEnMask = irqEnMask) : Cr1Inv s := by
  simp only [cr1Plain, Bool.and_eq_true, Bool.not_eq_true', Option.isNone_iff_eq_none] at hp
  obtain ⟨⟨⟨hd, ht⟩, hv⟩, hz⟩ := hp
  refine cr1Inv_iff.2 ⟨h, fun _ => ha, fun _ => hd, fun h => ?_, fun v h => ?_, fun h => ?_⟩
  · exact absurd (ht.symm.trans h) (by decide)
  · exact absurd (hv.symm.trans h) nofun
  · exact absurd (hz.symm.trans h) (by decide)

/-- In TRANSFER_ONE PH adds HWP = 1, and the value it holds of CR1 (R58, R87). -/
theorem cr1Inv_of_transfer {s : State} {k : TransferPos} (hp : s.ph = .transferOne k) (h : Cr1Core s)
    (hw : s.hwp = true) (hv : ∀ v, heldCr1 (.transferOne k) = some v → v = s.ssp.cr1) : Cr1Inv s := by
  refine cr1Inv_iff.2 ⟨h, ?_⟩
  rw [hp]
  exact ⟨nofun, fun _ => rfl, fun _ => hw, hv, nofun⟩

theorem Cr1Inv.other {s t : State} (hc : Cr1Inv s) (ho : OtherStep s t) : Cr1Inv t := by
  rw [ho.frame]; exact hc

/-- In TRANSFER_ONE HWP = 1 (R70, R87). -/
theorem Cr1At.hwp_of_transfer {s : State} (h : Cr1At s.ph s) {k : TransferPos} (hp : s.ph = .transferOne k) :
    s.hwp = true :=
  h.2.2.1 (by rw [hp]; rfl)

/-- In DETACH HWP = 0 (R70, R82). -/
theorem Cr1At.hwp_of_detach {s : State} (h : Cr1At s.ph s) {k : DetachPos} (hp : s.ph = .detach k) : s.hwp = false :=
  Bool.eq_false_iff.2 fun hw => by have h := h.2.1 hw; rw [hp] at h; cases h

/-- A detached controller is not prepared (R82). -/
theorem Cr1Core.hwp_of_detached {s : State} (h : Cr1Core s) (hl : s.life = .detached) : s.hwp = false :=
  Bool.eq_false_iff.2 fun hw => absurd (hl.symm.trans (h.2.1 hw).1) (by decide)

theorem Cr1At.held {s : State} {p : Phase} {v : Word} (h : Cr1At p s) (hv : heldCr1 p = some v) : v = s.ssp.cr1 :=
  h.2.2.2.1 v hv

theorem Cr1At.cr1_of_cleared {s : State} {p : Phase} (h : Cr1At p s) (hp : attachCleared p = true) : s.ssp.cr1 = 0 :=
  h.2.2.2.2 hp

/-- At the start of TRANSFER_ONE HWP = 1 (R70). -/
theorem Cr1At.hwp_of_transferStart {s : State} (h : Cr1At s.ph s)
    (hp : (s.ph = .ready ∧ requiredState s .transferOne = true) ∨ s.ph = .transferOne .start) : s.hwp = true := by
  rcases hp with ⟨-, hr⟩ | hp
  · simp only [requiredState, Bool.and_eq_true] at hr
    exact hr.2
  · exact h.hwp_of_transfer hp

/-- Without a PIO leg nothing is armed. -/
theorem NoLeg.not_pio {s : State} (h : NoLeg s) : s.legMode ≠ .pio := by rw [h.2]; decide

/-! ### ATTACH and DETACH -/

theorem attachTail_cr1Inv {s : State} (hz : s.ssp.cr1 = 0) : Cr1Inv (attachTail s) :=
  cr1Inv_of_plain rfl ⟨fun _ _ => by simp [attachTail, hz], nofun, fun h => absurd rfl h⟩ nofun

/-- After ATTACH's first step CR1 = 0, and the controller is detached until its last one (R81). -/
theorem attachCleared_cr1Inv {s : State} (hn : NoLeg s) (hl : s.life = .detached) (hw : s.hwp = false)
    (hz : s.ssp.cr1 = 0) {k : AttachPos} (hp : s.ph = .attach k) : Cr1Inv s := by
  refine cr1Inv_iff.2 ⟨⟨fun h => absurd (hl.symm.trans h) (by decide), fun h => absurd (hw.symm.trans h) (by decide),
    fun h => absurd hn.1 h⟩, ?_⟩
  rw [hp]
  exact ⟨fun _ h => absurd h hn.not_pio, fun _ => rfl, nofun, nofun, fun _ => hz⟩

theorem attachRelease_cr1Inv {s : State} (hn : NoLeg s) (hl : s.life = .detached) (hw : s.hwp = false)
    (hz : s.ssp.cr1 = 0) : Cr1Inv (attachRelease s) := by
  rcases attachRelease_cases s with ⟨-, h⟩ | ⟨-, h⟩ <;> rw [h]
  · exact attachCleared_cr1Inv hn hl hw hz rfl
  · exact attachTail_cr1Inv hz

/-- DETACH ends detached and not prepared (R82). -/
theorem detachTail_cr1Inv {s : State} (hn : NoLeg s) (hw : s.hwp = false) : Cr1Inv (detachTail s) :=
  cr1Inv_of_plain rfl ⟨nofun, fun h => absurd (hw.symm.trans h) (by decide), fun h => absurd hn.1 h⟩
    fun h => absurd h hn.not_pio

/-- A position of DETACH, which has no leg and is not prepared (R70). -/
theorem moveTo_detach_cr1Inv {s : State} (hcore : Cr1Core s) (hn : NoLeg s) (hw : s.hwp = false) (k : DetachPos) :
    Cr1Inv (moveTo (.detach k) s) :=
  cr1Inv_iff.2 ⟨hcore, fun _ h => absurd h hn.not_pio, fun h => absurd (hw.symm.trans h) (by decide),
    nofun, nofun, nofun⟩

theorem detachRx_cr1Inv {s : State} (hcore : Cr1Core s) (hn : NoLeg s) (hw : s.hwp = false) : Cr1Inv (detachRx s) := by
  rcases detachRx_cases s with ⟨-, h⟩ | ⟨-, h⟩ <;> rw [h]
  · exact moveTo_detach_cr1Inv hcore hn hw _
  · exact detachTail_cr1Inv hn hw

/-! ### The engine -/

/-- The engine's positions differ in nothing that Cr1Inv names. -/
theorem Cr1At.toEngine {i : Instr} {s : State} {k : EnginePos} (hi : runsEngine i = true) (h : Cr1At (engineAt i k) s)
    (k' : EnginePos) : Cr1At (engineAt i k') s := by
  rcases runsEngine_cases hi with rfl | rfl <;> exact h

/-- What follows the fill loop's test, on a PIO leg of a prepared controller. -/
theorem engineFilled_cr1Inv {i : Instr} {s : State} {k : EnginePos} (hi : runsEngine i = true) (hcore : Cr1Core s)
    (hat : Cr1At (engineAt i k) s) (hw : s.hwp = true) : Cr1Inv (engineFilled i s) := by
  rcases engineFilled_cases hi s with ⟨-, h⟩ | ⟨-, h⟩ | ⟨rfl, -, h⟩ | ⟨rfl, h⟩ <;> rw [h]
  · exact cr1Inv_iff.2 ⟨hcore, hat.toEngine hi _⟩
  · exact cr1Inv_of_transfer rfl hcore hw nofun
  · exact cr1Inv_iff.2 ⟨⟨hcore.1, hcore.2.1, fun _ => hw⟩, hat⟩
  · exact cr1Inv_iff.2 ⟨hcore, hat⟩

/-! ### Every instruction -/

/-- Every step of an instruction keeps Cr1Inv. -/
theorem Cr1Inv.block {i : Instr} {s t : State} (hm : ModeInv s) (hc : Cr1Inv s) (h : BlockStep i s t) : Cr1Inv t := by
  obtain ⟨hcore, hat⟩ := cr1Inv_iff.1 hc
  have ⟨hen, hsse, hleg⟩ := hcore
  have armed {p : Phase} (hp : s.ph = p) (ha : irqArmed p = true) :
      s.legMode = .pio → s.ssp.cr1 &&& irqEnMask = irqEnMask := hat.1 (by rw [hp]; exact ha)
  cases h with
  | badState | flushUnderflow | enginePopFault | enginePushFault => exact hc
  | attachStart hp | prepareHwStart hp | unprepareHwStart hp | prepareMsgStart hp | flushEmpty hp | flushTimeout hp
  | flushMore hp | flushDiscard hp | irqOverrun hp | irqEngine hp | dmaDoneUnmapRx hp =>
    exact cr1Inv_of_plain rfl hcore (armed hp rfl)
  | attachFirst hp =>
    obtain ⟨hn, hl⟩ := hm.attach hp
    have hw := hcore.hwp_of_detached hl
    split
    · exact attachCleared_cr1Inv hn hl hw rfl rfl
    · exact attachRelease_cr1Inv hn hl hw rfl
  | attachRx hp =>
    obtain ⟨hn, hl⟩ := hm.attach hp
    have hw := hcore.hwp_of_detached hl
    have hz := hat.cr1_of_cleared (by rw [hp]; rfl)
    split
    · exact attachCleared_cr1Inv hn hl hw hz rfl
    · exact attachRelease_cr1Inv hn hl hw hz
  | attachTx hp =>
    obtain ⟨hn, hl⟩ := hm.attach hp
    have hz := hat.cr1_of_cleared (by rw [hp]; rfl)
    split
    · exact attachTail_cr1Inv hz
    · exact attachRelease_cr1Inv hn hl (hcore.hwp_of_detached hl) hz
  | attachReleased hp =>
    have hz := hat.cr1_of_cleared (by rw [hp]; rfl)
    exact attachTail_cr1Inv hz
  | detachStart hp hr =>
    have hn := hm.noLeg_of_detach hp hr
    have hw : s.hwp = false := by
      simp only [requiredState, Bool.or_eq_true, Bool.and_eq_true, beq_iff_eq, Bool.not_eq_true'] at hr
      rcases hr with hl | ⟨-, hw⟩
      · exact hcore.hwp_of_detached hl
      · exact hw
    rcases detachStart_cases s with ⟨-, h⟩ | ⟨-, -, h⟩ | ⟨-, -, h⟩ <;> rw [h]
    · exact cr1Inv_of_plain rfl hcore (armed hp rfl)
    · exact moveTo_detach_cr1Inv hcore hn hw _
    · exact detachRx_cr1Inv hcore hn hw
  | @detachStep _ k hp =>
    have hn : NoLeg s := by simp only [ModeInv, hp] at hm; exact hm.2.1
    have hw := hat.hwp_of_detach hp
    cases k
    · exact detachRx_cr1Inv (s := setHeld s .tx false) hcore hn hw
    · exact detachTail_cr1Inv (s := setHeld s .rx false) hn hw
  | prepareHwRead hp | unprepareHwRead hp | irqCr1Read hp =>
    exact cr1Inv_iff.2
      ⟨hcore, fun _ => armed hp rfl, fun _ => rfl, nofun, fun _ hv => (Option.some.inj hv).symm, nofun⟩
  | prepareHwWrite hp =>
    obtain ⟨hn, hl⟩ : NoLeg s ∧ s.life = .attached := by simp only [ModeInv, hp] at hm; exact hm.2
    obtain rfl := hat.held (by rw [hp]; rfl)
    refine cr1Inv_of_plain rfl ⟨fun _ _ => ?_, fun _ => ⟨hl, or_sseMask_sse _⟩, fun _ => rfl⟩
      fun h => absurd h hn.not_pio
    exact (or_sseMask_irqEn _).trans (hen hl hn.not_pio)
  | unprepareHwWrite hp =>
    obtain ⟨hn, hl⟩ : NoLeg s ∧ s.life = .attached := by simp only [ModeInv, hp] at hm; exact hm.2
    obtain rfl := hat.held (by rw [hp]; rfl)
    refine cr1Inv_of_plain rfl ⟨fun _ _ => ?_, nofun, fun h => absurd hn.1 h⟩ fun h => absurd h hn.not_pio
    exact (andNot_sseMask_irqEn _).trans (hen hl hn.not_pio)
  | calcUnwritten hp | calcOk hp | calcFail hp =>
    have harmed := hat.1 (by rcases hp with ⟨hp, -⟩ | hp <;> rw [hp] <;> rfl)
    exact cr1Inv_of_plain rfl hcore harmed
  | transferUnwritten hp | transferMalformed hp | transferLatch hp =>
    exact cr1Inv_of_transfer rfl hcore (hat.hwp_of_transferStart hp) nofun
  | transferNoRate hp =>
    exact cr1Inv_of_plain rfl hcore fun h => absurd h (hm.transferStart hp).1.not_pio
  | transferCpsr hp =>
    exact cr1Inv_of_transfer rfl hcore (hat.hwp_of_transfer hp) nofun
  | transferCr0 hp =>
    have hw := hat.hwp_of_transfer hp
    rcases transferPathState_cases _ with h | h <;> rw [h]
    · exact cr1Inv_of_transfer rfl hcore hw nofun
    · exact cr1Inv_of_transfer rfl ⟨fun _ h => absurd rfl h, hsse, fun _ => hw⟩ hw nofun
  | transferCr1Read hp =>
    exact cr1Inv_of_transfer rfl hcore (hat.hwp_of_transfer hp) fun _ hv => (Option.some.inj hv).symm
  | transferCr1Write hp =>
    have hpio : s.legMode = .pio := by simp only [ModeInv, hp] at hm; exact hm.2.2
    obtain rfl := hat.held (by rw [hp]; rfl)
    exact cr1Inv_of_plain rfl ⟨fun _ h => absurd hpio h,
      fun h => ⟨(hsse h).1, (or_irqEnMask_sse _).trans (hsse h).2⟩, hleg⟩ fun _ => or_irqEnMask_irqEn _
  | @transferDma _ k hp =>
    obtain ⟨hn, hl⟩ := hm.transfer hp (by simp)
    have hw := hat.hwp_of_transfer hp
    rcases dmaStep_cases k s with h | ⟨-, h⟩
    · have hcore' : Cr1Core (dmaStep k s) := by
        unfold Cr1Core
        rw [h.legMode, h.fsm, h.frame.eq]
        exact hcore
      rcases h.next with ⟨j, hj, -⟩ | ⟨hj, -⟩
      · exact cr1Inv_of_transfer hj hcore' (by rw [h.frame.eq]; exact hw) nofun
      · exact cr1Inv_of_plain (by rw [hj]; rfl) hcore' fun hpio => absurd (h.legMode.symm.trans hpio) hn.not_pio
    · rw [h]
      exact cr1Inv_of_plain rfl ⟨fun _ _ => hen hl hn.not_pio, hsse, fun _ => hw⟩ nofun
  | engineDrain hr hp =>
    rw [hp] at hat
    exact cr1Inv_iff.2 ⟨hcore, hat.toEngine hr _⟩
  | enginePop hr hp hq =>
    rw [hp] at hat
    obtain ⟨u, q, m, r, -, -, -, rfl, -⟩ := pop_ok hq
    exact cr1Inv_iff.2 ⟨hcore, hat.toEngine hr _⟩
  | engineFill hr hp =>
    have hw := hleg (by rw [(hm.engine hr hp).1]; decide)
    rw [hp] at hat
    exact engineFilled_cr1Inv hr hcore hat hw
  | enginePush hr hp hq =>
    have hw := hleg (by rw [(hm.engine hr hp).1]; decide)
    rw [hp] at hat
    obtain ⟨v, n, -, rfl⟩ := push_ok hq
    exact engineFilled_cr1Inv hr hcore hat hw
  | irqStart hp | irqSpurious hp | dmaDoneStart hp | dmaDoneEarly hp | dmaDoneSpurious hp =>
    have harmed := hat.1 (by rcases hp with hp | hp <;> rw [hp] <;> rfl)
    exact cr1Inv_of_plain rfl hcore harmed
  | irqIcr hp =>
    have hw := hleg (by simp only [ModeInv, hp] at hm; rw [hm.2.1]; decide)
    exact cr1Inv_of_plain rfl ⟨hen, hsse, fun _ => hw⟩ (armed hp rfl)
  | irqCr1Write hp =>
    obtain rfl := hat.held (by rw [hp]; rfl)
    exact cr1Inv_of_plain rfl ⟨fun _ _ => andNot_irqEnMask_irqEn _,
      fun h => ⟨(hsse h).1, (andNot_irqEnMask_sse _).trans (hsse h).2⟩, fun h => absurd rfl h⟩ nofun
  | dmaDoneUnmapTx hp =>
    have hd : s.legMode = .dma := by simp only [ModeInv, hp] at hm; exact hm.2.2
    rw [endLeg_dmaDone]
    exact cr1Inv_of_plain rfl ⟨fun hl _ => hen hl (by rw [hd]; decide), hsse, fun h => absurd rfl h⟩ nofun

/-- Settles O55: with ModeInv, Cr1Inv is inductive. -/
theorem cr1FollowsTheBlock : Obligations.Cr1FollowsTheBlock := by
  intro s t hm hc h
  have hall : ModeInv t ∧ Cr1Inv t :=
    step_keeps (P := fun s => ModeInv s ∧ Cr1Inv s) (fun i s t ⟨hm, hc⟩ _ _ h => ⟨hm.block h, hc.block hm h⟩)
      (fun s t ⟨hm, hc⟩ h => ⟨hm.other h, hc.other h⟩) ⟨hm, hc⟩ h
  exact hall.2

end Sys2Proof.Machine
end

section
/-! SUPPORT. HOST's accesses to system memory and the races among them (R47, R56). -/

namespace Sys2Proof.Machine

/-- A leg is owned while FSM ≠ Idle, and in TRANSFER_ONE once LEG is latched (R56). -/
theorem legOwned_iff {s : State} :
    legOwned s = true ↔ s.fsm ≠ .idle ∨ ∃ k, k ≠ .start ∧ s.ph = .transferOne k := by
  unfold legOwned
  rw [Bool.or_eq_true, bne_iff_ne]
  refine or_congr_right ?_
  split
  · rename_i hp
    simp [hp]
  · rename_i k hk hp
    exact iff_of_true rfl ⟨k, hk, hp⟩
  · rename_i hother
    exact iff_of_false nofun fun ⟨k, _, hp⟩ => hother k hp

/-- The bytes of a present buffer of the leg (R56). -/
theorem inLegBuffer_iff {l : Leg} {a : Nat} :
    inLegBuffer l a = true ↔
      (l.txp = true ∧ l.tx.toNat ≤ a ∧ a < l.tx.toNat + l.len.toNat) ∨
        (l.rxp = true ∧ l.rx.toNat ≤ a ∧ a < l.rx.toNat + l.len.toNat) := by
  simp [inLegBuffer, and_assoc]

/-- A refused byte gives HOST no step (R47). -/
theorem hostMemRead_refused {s : State} {a : Nat} (h : admitted s a = false) : hostMemRead a s = .next s := by
  simp [hostMemRead, h]

theorem hostMemWrite_refused {s : State} {a : Nat} {v : Byte} (h : admitted s a = false) :
    hostMemWrite a v s = .next s := by
  simp [hostMemWrite, h]

/-- Out of a race a settled byte reads as memory holds it (R56). -/
theorem hostMemRead_settled {s : State} {a : Nat} (h : admitted s a = true) (hr : racing s a = false)
    (hu : a ∉ s.unsettled) : hostMemRead a s = .next { s with hostData := (Memory.read s.mem a).setWidth 32 } := by
  simp [hostMemRead, h, hr, hu]

/-- In a race, and while the byte is unsettled, HOST reads a free value (R56). -/
theorem hostMemRead_draw {s : State} {a : Nat} (h : admitted s a = true) (hr : racing s a = true ∨ a ∈ s.unsettled) :
    hostMemRead a s = .next { s with hostData := (Config.raceByte s.draws).setWidth 32, draws := s.draws + 1 } := by
  simp [hostMemRead, h, hr]

/-- What HOST's write of a does to a list of marked addresses: a is marked in a race and unmarked out of one (R56). -/
def hostMark (s : State) (a : Nat) : List Nat → List Nat := if racing s a then addrInsert a else addrErase a

theorem hostMemWrite_admitted {s : State} {a : Nat} {v : Byte} (h : admitted s a = true) :
    hostMemWrite a v s =
      .next { s with
        mem := Memory.write s.mem a v, raced := hostMark s a s.raced, unsettled := hostMark s a s.unsettled } := by
  simp [hostMemWrite, hostMark, h]

theorem mem_hostMark_same (s : State) (a : Nat) (l : List Nat) : a ∈ hostMark s a l ↔ racing s a = true := by
  unfold hostMark
  split
  · simp [mem_addrInsert, *]
  · simp [mem_addrErase, *]

theorem mem_hostMark_other (s : State) {a b : Nat} (h : b ≠ a) (l : List Nat) : b ∈ hostMark s a l ↔ b ∈ l := by
  unfold hostMark
  split
  · simp [mem_addrInsert, h]
  · simp [mem_addrErase, h]

/-- To BLOCK and DMA a raced byte is a draw (R56). -/
theorem readByte_raced {s : State} {a : Nat} (h : admitted s a = true) (hr : a ∈ s.raced) :
    readByte s a = some (Config.raceByte s.draws, { s with draws := s.draws + 1 }) := by
  simp [readByte, h, hr]

theorem read_write_same (a : Nat) (v : Byte) {m : List Host.Cell} (hm : Memory.wf m = true) :
    Memory.read (Memory.write m a v) a = v := (read_write a a v hm).trans (if_pos rfl)

theorem read_write_other {a b : Nat} (h : b ≠ a) (v : Byte) {m : List Host.Cell} (hm : Memory.wf m = true) :
    Memory.read (Memory.write m a v) b = Memory.read m b := (read_write b a v hm).trans (if_neg h)

/-- Settles O46: HOST's reads and writes case by case, a write through `hostMark`, and a race by its definition. -/
theorem hostMemoryAndRaces : Obligations.HostMemoryAndRaces := by
  intro s a v hi
  obtain ⟨hwf, -⟩ := hi
  refine ⟨fun h => ⟨hostMemRead_refused h, hostMemWrite_refused h⟩, hostMemRead_settled, hostMemRead_draw,
    fun h => ⟨_, hostMemWrite_admitted h, read_write_same a v hwf, rfl, fun b hb => ?_, ?_, ?_⟩, readByte_raced,
    fun t ht => ?_, ?_⟩
  · exact ⟨read_write_other hb v hwf, mem_hostMark_other s hb _, mem_hostMark_other s hb _⟩
  · exact mem_hostMark_same s a _
  · exact mem_hostMark_same s a _
  · obtain ⟨-, rfl⟩ := writeByte_some ht
    exact ⟨rfl, fun hc => ((mem_addrErase _ _ _).1 hc).1 rfl, read_write_same a v hwf,
      fun b hb => ⟨read_write_other hb v hwf, (mem_addrErase _ _ _).trans (and_iff_right hb)⟩⟩
  · rw [racing, Bool.and_eq_true, legOwned_iff, inLegBuffer_iff]

end Sys2Proof.Machine
end

section
/-! SUPPORT. The SSP's register map, and what an access at each offset does (R38 to R41, R46(b)). -/

namespace Sys2Proof.Machine

/-- R46(b) gives no register at any other offset. -/
theorem sspRegAt_eq_none {off : Nat} (h : off ∉ [0x00, 0x04, 0x08, 0x0C, 0x10, 0x14]) : sspRegAt off = none := by
  refine Option.eq_none_iff_forall_ne_some.2 fun r hr => h ?_
  rw [sspRegAt_eq_some.1 hr]
  cases r <;> decide

theorem ioRead32_none {off : Nat} (s : State) (h : sspRegAt off = none) :
    ioRead32 off s = .error (.fault .noSspRegister) := by
  unfold ioRead32; rw [h]

theorem ioWrite32_none {off : Nat} (v : Word) (s : State) (h : sspRegAt off = none) :
    ioWrite32 off v s = .error (.fault .noSspRegister) := by
  unfold ioWrite32; rw [h]

/-- Settles O45: DR by its two cases each way, the other registers by their one access, and no register elsewhere. -/
theorem sspAccesses : Obligations.SspAccesses := by
  refine ⟨fun p => ⟨rfl, rfl, rfl, rfl, rfl, rfl, rfl⟩, fun s v =>
    ⟨fun u q hq => ?_, fun hq => ?_, fun hl => ?_, fun hl => ?_, ioWrite32_icr v s, ioWrite32_cr0 v s,
      ioWrite32_cr1 v s, ioWrite32_cpsr v s, rfl, ioRead32_cr1 s, rfl, ioRead32_sr s, ioRead32_iir s, rfl,
      fun off hoff => ?_⟩⟩
  · rcases ioRead32_dr s with ⟨hn, -⟩ | ⟨u', q', hq', h⟩
    · cases hq.symm.trans hn
    · cases hq.symm.trans hq'
      exact h
  · rcases ioRead32_dr s with ⟨-, h⟩ | ⟨u, q, hq', -⟩
    · exact h
    · cases hq.symm.trans hq'
  · rcases ioWrite32_dr v s with ⟨hfull, -⟩ | ⟨-, h⟩
    · exact absurd hfull (Nat.not_le.2 hl)
    · exact h
  · rcases ioWrite32_dr v s with ⟨-, h⟩ | ⟨hfree, -⟩
    · exact h
    · exact absurd hl (Nat.not_le.2 hfree)
  · have hnone := sspRegAt_eq_none hoff
    exact ⟨ioRead32_none s hnone, ioWrite32_none v s hnone⟩

end Sys2Proof.Machine
end

section
/-! SUPPORT. The opcode map (R65), said once for both formats: a row is found at the instruction's width and code alone.
The words R66 reserves are the rest. -/

namespace Sys2Proof

/-- A row of the map is its instruction's width, a mask of that width, and its code. -/
theorem opcodeTable_row {r : OpcodeRow} (h : r ∈ opcodeTable) :
    r.nbits = instrBits r.instr ∧ r.mask = 2 ^ r.nbits - 1 ∧ r.pattern = (instrCode r.instr).toNat := by
  have hrows : ∀ r ∈ opcodeTable,
      r.nbits = instrBits r.instr ∧ r.mask = 2 ^ r.nbits - 1 ∧ r.pattern = (instrCode r.instr).toNat := by decide
  exact hrows r h

/-- The map has one row for an instruction, and the row matches its code at its width alone (R65). -/
theorem lookupRow_eq_some {nbits w : Nat} (hw : w < 2 ^ nbits) {i : Instr} :
    lookupRow nbits w = some i ↔ nbits = instrBits i ∧ w = (instrCode i).toNat := by
  constructor
  · intro h
    obtain ⟨r, hfind, rfl⟩ := Option.map_eq_some_iff.1 h
    obtain ⟨hbits, hmask, hcode⟩ := opcodeTable_row (List.mem_of_find?_eq_some hfind)
    have hmatch := List.find?_some hfind
    simp only [rowMatches, Bool.and_eq_true, beq_iff_eq] at hmatch
    obtain ⟨rfl, hpat⟩ := hmatch
    rw [hmask, Nat.and_two_pow_sub_one_eq_mod, Nat.mod_eq_of_lt hw] at hpat
    exact ⟨hbits, hpat.trans hcode⟩
  · rintro ⟨rfl, rfl⟩
    cases i <;> rfl

/-- An instruction's width is 32 exactly when it is a command's, and 8 exactly when it is an event's (R61, R62). -/
theorem eq_instrBits_iff {n : Nat} {i : Instr} :
    n = instrBits i ↔ (n = 32 ∧ isEvent i = false) ∨ (n = 8 ∧ isEvent i = true) := by
  unfold instrBits; cases isEvent i <;> simp

/-- The table decoder looks up the word cut to its width. -/
theorem decodeTableWord_eq_lookupRow (nbits w : Nat) : decodeTableWord nbits w = lookupRow nbits (w % 2 ^ nbits) := by
  unfold decodeTableWord
  split
  · next h =>
    subst h
    unfold decodeCmd
    rw [BitVec.toNat_ofNat]
    cases lookupRow 32 (w % 2 ^ 32) <;> rfl
  · split
    · next h =>
      subst h
      unfold decodeEvt
      rw [BitVec.toNat_ofNat]
      cases lookupRow 8 (w % 2 ^ 8) <;> rfl
    · next h32 h8 =>
      refine (Option.eq_none_iff_forall_ne_some.2 fun i hi => ?_).symm
      have hbits := ((lookupRow_eq_some (Nat.mod_lt w (Nat.two_pow_pos nbits))).1 hi).1
      exact (eq_instrBits_iff.1 hbits).elim (fun h => h32 h.1) (fun h => h8 h.1)

/-- The table decoder answers an instruction at its width, on the words that are its encoding at that width. -/
theorem decodeTableWord_eq_some {nbits w : Nat} {i : Instr} :
    decodeTableWord nbits w = some i ↔ nbits = (encode i).1 ∧ w % 2 ^ nbits = (encode i).2 := by
  rw [decodeTableWord_eq_lookupRow]
  exact lookupRow_eq_some (Nat.mod_lt w (Nat.two_pow_pos nbits))

theorem decodeCmd_eq_ok_iff_lookupRow {w : Word} {i : Instr} : decodeCmd w = .ok i ↔ lookupRow 32 w.toNat = some i := by
  unfold decodeCmd; cases lookupRow 32 w.toNat <;> simp

theorem decodeEvt_eq_ok_iff_lookupRow {e : Byte} {i : Instr} : decodeEvt e = .ok i ↔ lookupRow 8 e.toNat = some i := by
  unfold decodeEvt; cases lookupRow 8 e.toNat <;> simp

/-- A command word decodes exactly when it is a command's code, zero-extended (R65). -/
theorem decodeCmd_eq_ok {w : Word} {i : Instr} : decodeCmd w = .ok i ↔ isEvent i = false ∧ w = encodeCmd i := by
  have hcode : (encodeCmd i).toNat = (instrCode i).toNat := by
    rw [encodeCmd, BitVec.toNat_setWidth_of_le (by decide)]
  rw [decodeCmd_eq_ok_iff_lookupRow, lookupRow_eq_some w.isLt, eq_instrBits_iff, ← hcode, BitVec.toNat_inj]
  simp

/-- An event code decodes exactly when it is an event's (R65). -/
theorem decodeEvt_eq_ok {e : Byte} {i : Instr} : decodeEvt e = .ok i ↔ isEvent i = true ∧ e = encodeEvt i := by
  rw [decodeEvt_eq_ok_iff_lookupRow, lookupRow_eq_some e.isLt, eq_instrBits_iff, BitVec.toNat_inj]
  simp [encodeEvt]

/-- Settles O1: each decoder answers the instruction of the one row that matches. -/
theorem decoderIsExactlyTheOpcodeMap : Obligations.DecoderIsExactlyTheOpcodeMap := by
  refine ⟨fun w i => decodeCmd_eq_ok.trans ?_, fun e i => decodeEvt_eq_ok.trans ?_, fun _ _ _ => decodeTableWord_eq_some⟩
  · cases i <;> simp [isEvent, encodeCmd, instrCode]
  · cases i <;> simp [isEvent, encodeEvt, instrCode]

/-- Settles O3: closed words, decoded by running the decoder. -/
theorem sampleWordsDecode : Obligations.SampleWordsDecode := by
  unfold Obligations.SampleWordsDecode; decide

/-! ### Reserved words -/

/-- The command words that decode are 1 to 7 (R65, R66). -/
theorem decodeCmd_ok_iff_range {w : Word} : (∃ i, decodeCmd w = .ok i) ↔ 1 ≤ w.toNat ∧ w.toNat ≤ 7 := by
  constructor
  · rintro ⟨i, hi⟩
    obtain ⟨hcmd, rfl⟩ := decodeCmd_eq_ok.1 hi
    revert hcmd; cases i <;> decide
  · rintro ⟨hlow, hhigh⟩
    have hw : w = BitVec.ofNat 32 w.toNat := by simp
    generalize w.toNat = n at hlow hhigh hw
    subst hw
    interval_cases n
    exacts [⟨.attach, rfl⟩, ⟨.detach, rfl⟩, ⟨.prepareHw, rfl⟩, ⟨.unprepareHw, rfl⟩, ⟨.prepareMsg, rfl⟩,
      ⟨.transferOne, rfl⟩, ⟨.calcDivisors, rfl⟩]

/-- The command words that decode to nothing are the four reserved classes of R66. -/
theorem decodeCmd_error_iff {w : Word} :
    (∃ r, decodeCmd w = .error r) ↔
      w >>> 8 ≠ 0 ∨ w.toNat % 256 = 0 ∨ (0x08 ≤ w.toNat % 256 ∧ w.toNat % 256 ≤ 0x7F) ∨ 0x80 ≤ w.toNat % 256 := by
  have herror : (∃ r, decodeCmd w = .error r) ↔ ¬ ∃ i, decodeCmd w = .ok i := by
    cases decodeCmd w <;> simp
  have hrsv : w >>> 8 = 0 ↔ w.toNat / 256 = 0 := by
    rw [← BitVec.toNat_inj, BitVec.toNat_ushiftRight, Nat.shiftRight_eq_div_pow]; rfl
  rw [herror, decodeCmd_ok_iff_range, ne_eq, hrsv]
  omega

/-- Only 0x80 and 0x81 are event codes (R65, R66). -/
theorem decodeEvt_error {e : Byte} (h : e.toNat < 0x80 ∨ 0x82 ≤ e.toNat) : ∃ r, decodeEvt e = .error r := by
  cases hd : decodeEvt e with
  | error r => exact ⟨r, rfl⟩
  | ok i =>
    obtain ⟨hevt, rfl⟩ := decodeEvt_eq_ok.1 hd
    have hcode : 0x80 ≤ (encodeEvt i).toNat ∧ (encodeEvt i).toNat < 0x82 := by
      revert hevt; cases i <;> decide
    omega

end Sys2Proof
end

section
/-! SUPPORT. HOST's writes of the host port at PH = Ready (R43, R65, R66, R71). -/

namespace Sys2Proof.Machine

/-- R66: a reserved word written to CMD faults. -/
theorem command_error {w : Word} {r : Reject} (s : State) (h : decodeCmd w = .error r) :
    command w s = .next (raised .illegalCommand s) := by
  unfold command; rw [h]; rfl

/-- The first fault: FAULTS is its reason alone. -/
theorem raised_of_no_faults {s : State} (h : s.faults = []) (r : Reason) :
    raised r s = { s with faults := [r], faultCode := if s.faultCode = 0 then reasonCode r else s.faultCode } := by
  unfold raised; rw [h]; rfl

/-- A reserved event code is refused (R62, R66). -/
theorem eventStep_error {e : Byte} {r : Reject} (s : State) (h : decodeEvt e = .error r) :
    eventStep e s = .refused .reservedEvent := by
  unfold eventStep; rw [h]

/-- HOST may write exactly when BLOCK may start (R71, R115). -/
theorem Free.ready_and_not_stopped {s : State} (h : Free s) : (s.ph == .ready && !stopped s) = true := by
  obtain ⟨hfaults, hph⟩ := h
  rw [stopped_nil hfaults, hph]; rfl

/-- A write of CMD offers its word to BLOCK (R65). -/
theorem perform_write_cmd {s : State} (h : Free s) (w : Word) : perform (.host (.write 0x00 w)) s = command w s :=
  if_pos h.ready_and_not_stopped

/-- A write of an argument register stores the argument (R71). -/
theorem perform_write_argument {s : State} (h : Free s) {off : Nat} {v : Word} {a : Args}
    (ha : argWrite s.args off v = some a) : perform (.host (.write off v)) s = .next { s with args := a } := by
  show hostWrite off v s = _
  unfold hostWrite
  rw [if_pos h.ready_and_not_stopped]
  split
  · cases ha
  · rw [ha]

/-- A write of any other offset but CMD faults (R71). -/
theorem perform_write_illegal {s : State} (h : Free s) {off : Nat} {v : Word} (hoff : off ≠ 0)
    (ha : argWrite s.args off v = none) : perform (.host (.write off v)) s = .next (raised .illegalAccess s) := by
  show hostWrite off v s = _
  unfold hostWrite
  rw [if_pos h.ready_and_not_stopped]
  split
  · exact absurd rfl hoff
  · rw [ha]; rfl

/-- No other offset is an argument's (R43). -/
theorem argWrite_eq_none (a : Args) {off : Nat} (v : Word) (h : off ∉ [0x00, 0x10, 0x14, 0x18, 0x1C, 0x20]) :
    argWrite a off v = none := by
  unfold argWrite
  split
  case h_6 => rfl
  all_goals exact absurd (by decide) h

/-- Settles O2: the reserved classes are what the opcode map leaves, and neither entry point runs such a word. -/
theorem reservedWordsAreIllegal : Obligations.ReservedWordsAreIllegal := by
  refine ⟨fun w => decodeCmd_error_iff, fun s w hs hw => ?_, fun s e he => ?_⟩
  · obtain ⟨r, hr⟩ := decodeCmd_error_iff.2 hw
    rw [perform_write_cmd hs, command_error s hr, raised_of_no_faults hs.1]
    rfl
  · obtain ⟨r, hr⟩ := decodeEvt_error he
    exact eventStep_error s hr

/-- Settles O42: an argument offset is stored by its case of argWrite, and every other offset but CMD has none. -/
theorem hostWrites : Obligations.HostWrites := by
  intro s v hs
  refine ⟨perform_write_argument hs rfl, perform_write_argument hs rfl, perform_write_argument hs rfl,
    perform_write_argument hs rfl, perform_write_argument hs rfl, fun off hoff => ?_⟩
  have hcmd : off ≠ 0 := fun h => hoff (by rw [h]; decide)
  exact perform_write_illegal hs hcmd (argWrite_eq_none s.args v hoff)

end Sys2Proof.Machine
end

section
/-! SUPPORT. The start of an instruction at PH = Ready: its state check, then its own computation (R70, R119); and the
operands TRANSFER_ONE's start reads (R63). -/

namespace Sys2Proof.Machine

/-- What an instruction does at PH = Ready once its state check has passed (exec_of_free). -/
def begun : Instr → State → Out
  | .attach, s => goto (.attach .writeCr1) s
  | .detach, s => .next (detachStart s)
  | .prepareHw, s => goto (.prepareHw .read) { s with clken := true }
  | .unprepareHw, s => goto (.unprepareHw .read) s
  | .prepareMsg, s => goto (.prepareMsg .readSr) { s with msgSt := .ok, expired := false }
  | .transferOne, s => transferStart s
  | .calcDivisors, s => calcBody s
  | .evtIrq, s => irqStart s
  | .evtDmaRxDone, s => dmaDoneStart s

/-- At PH = Ready with no fault every instruction is its state check and then its start; an event's check always passes. -/
theorem exec_of_free {s : State} (h : Free s) (i : Instr) : exec i s = startCommand i s (begun i) := by
  obtain ⟨hfaults, hph⟩ := h
  cases i <;>
    simp only [exec, execAttach, execDetach, execPrepareHw, execUnprepareHw, execPrepareMsg, execTransferOne,
      execCalcDivisors, execEvtIrq, execEvtDmaRxDone, stopped_nil hfaults, hph] <;> rfl

theorem startCommand_of_required {i : Instr} {s : State} (h : requiredState s i = true) (f : State → Out) :
    startCommand i s f = f s := if_pos h

theorem startCommand_of_not_required {i : Instr} {s : State} (h : requiredState s i = false) (f : State → Out) :
    startCommand i s f = .next (raised .badState s) := if_neg (by simp [h])

/-- Another reason adds no BadState. -/
theorem badState_not_mem_raised {r : Reason} {s : State} (hr : r ≠ .badState) (hs : .badState ∉ s.faults) :
    .badState ∉ (raised r s).faults := fun h => ((mem_addReason ..).1 h).elim (fun he => hr he.symm) hs

/-- No instruction raises BadState after its state check. -/
theorem badState_not_mem_begun {i : Instr} {s t : State} (hs : .badState ∉ s.faults) (h : begun i s = .next t) :
    .badState ∉ t.faults := by
  cases i with
  | attach | prepareHw | unprepareHw | prepareMsg => cases h; exact hs
  | detach => cases h; rw [(detachStart_sameFaults s).1]; exact hs
  | transferOne =>
    simp only [begun, transferStart, transferLatch] at h
    split at h
    · cases h; exact badState_not_mem_raised (by decide) hs
    · split at h
      · split at h <;> cases h <;> exact hs
      · cases h; exact badState_not_mem_raised (by decide) hs
  | calcDivisors =>
    simp only [begun, calcBody] at h
    split at h
    · cases h; exact badState_not_mem_raised (by decide) hs
    · split at h <;> cases h <;> exact hs
  | evtIrq =>
    simp only [begun, irqStart] at h
    split at h <;> cases h
    · exact hs
    · exact badState_not_mem_raised (by decide) hs
  | evtDmaRxDone =>
    simp only [begun, dmaDoneStart] at h
    split at h
    · split at h <;> cases h
      · exact badState_not_mem_raised (by decide) hs
      · exact hs
    · cases h; exact badState_not_mem_raised (by decide) hs

/-- An instruction raises BadState at its start exactly when its required state does not hold (R70). -/
theorem exec_eq_badState_iff {s : State} (h : Free s) (i : Instr) :
    exec i s = .next (raised .badState s) ↔ ¬ requiredState s i = true := by
  rw [exec_of_free h]
  cases hr : requiredState s i with
  | false => simpa using startCommand_of_not_required hr _
  | true =>
    rw [startCommand_of_required hr]
    have hnone : .badState ∉ s.faults := by rw [h.1]; exact List.not_mem_nil
    have hne : begun i s ≠ .next (raised .badState s) := fun hb =>
      badState_not_mem_begun hnone hb ((mem_addReason ..).2 (.inl rfl))
    simpa using hne

/-- Settles O7: the required states are the rows of R70's table. -/
theorem requiredStateOfEveryCommand : Obligations.RequiredStateOfEveryCommand := by
  intro s hs
  refine ⟨?_, ?_, ?_, ?_, ?_, ?_, ?_⟩ <;>
    exact (exec_eq_badState_iff hs _).trans (not_congr (by simp [requiredState, and_assoc]))

/-! ### TRANSFER_ONE's operands -/

/-- An address operand is missing when its buffer is present and its argument Unwritten. -/
theorem addrOperand_eq_none {present : Bool} {a : Option Word} :
    (if present then a else some 0) = none ↔ present = true ∧ a = none := by
  cases present <;> simp

/-- A request is missing exactly when an argument it reads is Unwritten (R23, R63). -/
theorem readRequest_eq_none {a : Args} :
    readRequest a = none ↔
      a.cfg = none ∨ a.len = none ∨ a.speed = none ∨
      (∃ c : Word, a.cfg = some c ∧ c.getLsbD 8 = true ∧ a.txAddr = none) ∨
      (∃ c : Word, a.cfg = some c ∧ c.getLsbD 9 = true ∧ a.rxAddr = none) := by
  unfold readRequest
  cases hcfg : a.cfg with
  | none => simp
  | some c =>
    cases hlen : a.len with
    | none => simp
    | some len =>
      cases hspeed : a.speed with
      | none => simp
      | some speed =>
        have htx : (if cfgTxp c then a.txAddr else some 0) = none ↔ c.getLsbD 8 = true ∧ a.txAddr = none :=
          addrOperand_eq_none
        have hrx : (if cfgRxp c then a.rxAddr else some 0) = none ↔ c.getLsbD 9 = true ∧ a.rxAddr = none :=
          addrOperand_eq_none
        simp only [reduceCtorEq, Option.some.injEq, exists_eq_left', ← htx, ← hrx, false_or]
        generalize (if cfgTxp c then a.txAddr else some 0) = tx, (if cfgRxp c then a.rxAddr else some 0) = rx
        cases tx <;> cases rx <;> simp

/-- The fields of the request that is read (R63). -/
theorem readRequest_eq_some {a : Args} {c : Word} {l : Leg} (h : readRequest a = some (c, l)) :
    a.cfg = some c ∧ a.len = some l.len ∧ a.speed = some l.speed ∧
      (if cfgTxp c then a.txAddr else some 0) = some l.tx ∧ (if cfgRxp c then a.rxAddr else some 0) = some l.rx ∧
      l.txp = cfgTxp c ∧ l.rxp = cfgRxp c ∧ l.bpw = cfgBpw c ∧ l.cpol = cfgCpol c ∧ l.cpha = cfgCpha c := by
  unfold readRequest at h
  split at h
  · split at h
    · cases h; exact ⟨‹_›, ‹_›, ‹_›, ‹_›, ‹_›, rfl, rfl, rfl, rfl, rfl⟩
    · cases h
  · cases h

/-- Settles O20: the request is missing or read field by field, and a missing one stops the start. -/
theorem requestOperands : Obligations.RequestOperands := by
  refine fun s => ⟨readRequest_eq_none, fun hs hlife hfsm hhwp hnone => ?_, fun c l h => ?_⟩
  · rw [exec_of_free hs, startCommand_of_required (by simp [requiredState, hlife, hfsm, hhwp])]
    show transferStart s = _
    unfold transferStart; rw [hnone]; rfl
  · obtain ⟨hcfg, hlen, hspeed, htx, hrx, htxp, hrxp, hbpw, hcpol, hcpha⟩ := readRequest_eq_some h
    refine ⟨hcfg, hlen, hspeed, ?_, htxp, hrxp, hcpha, hcpol, fun hp => ?_, fun hp => ?_⟩
    · rw [hbpw, cfgBpw, BitVec.toNat_setWidth]
    · rwa [if_pos (htxp.symm.trans hp)] at htx
    · rwa [if_pos (hrxp.symm.trans hp)] at hrx

end Sys2Proof.Machine
end

section
/-! SUPPORT. The divisor search (R74 to R78): what its two loops answer, the first pair in the search order, the closed form
as that pair, and CALC_DIVISORS (R80). -/

namespace Sys2Proof.Machine

/-! ### The two loops -/

/-- The counter loop answers the first counter of its range that meets the inequality. -/
theorem searchCounter_eq_some {base r p n s c : Nat} (h : searchCounter base r p n s = some c) :
    s ≤ c ∧ c < s + n ∧ base / (p * (c + 1)) ≤ r ∧ ∀ s', s ≤ s' → s' < c → r < base / (p * (s' + 1)) := by
  induction n generalizing s with
  | zero => cases h
  | succ n ih =>
    rw [searchCounter] at h
    split at h
    next hmeets => cases h; exact ⟨le_rfl, by omega, hmeets, fun s' _ _ => by omega⟩
    next hmiss =>
      obtain ⟨hle, hlt, hmeets, hfirst⟩ := ih h
      refine ⟨by omega, by omega, hmeets, fun s' hs' hc => ?_⟩
      rcases hs'.eq_or_lt with rfl | hs'
      · exact not_le.1 hmiss
      · exact hfirst s' hs' hc

/-- The counter loop fails only when every counter of its range misses the inequality. -/
theorem searchCounter_eq_none {base r p n s : Nat} (h : searchCounter base r p n s = none) (s' : Nat) (hs' : s ≤ s')
    (hn : s' < s + n) : r < base / (p * (s' + 1)) := by
  induction n generalizing s with
  | zero => omega
  | succ n ih =>
    rw [searchCounter] at h
    split at h
    next => cases h
    next hmiss =>
      rcases hs'.eq_or_lt with rfl | hs'
      · exact not_le.1 hmiss
      · exact ih h hs' (by omega)

/-- The pre-scaler loop answers what the counter loop answers at the first pre-scaler of its range where that does. -/
theorem searchPrescaler_eq_some {base r n p a c : Nat} (h : searchPrescaler base r n p = some (a, c)) :
    (∃ k < n, a = p + 2 * k) ∧ searchCounter base r a 256 0 = some c ∧
      ∀ j, p + 2 * j < a → searchCounter base r (p + 2 * j) 256 0 = none := by
  induction n generalizing p with
  | zero => cases h
  | succ n ih =>
    rw [searchPrescaler] at h
    split at h
    next hsome => cases h; exact ⟨⟨0, by omega, rfl⟩, hsome, fun j _ => by omega⟩
    next hnone =>
      obtain ⟨⟨k, hk, ha⟩, hsome, hfirst⟩ := ih h
      refine ⟨⟨k + 1, by omega, by omega⟩, hsome, fun j hj => ?_⟩
      cases j with
      | zero => exact hnone
      | succ j =>
        have hshift : p + 2 * (j + 1) = p + 2 + 2 * j := by omega
        rw [hshift] at hj ⊢
        exact hfirst j hj

/-- The pre-scaler loop fails only when the counter loop fails at every pre-scaler of its range. -/
theorem searchPrescaler_eq_none {base r n p : Nat} (h : searchPrescaler base r n p = none) (j : Nat) (hj : j < n) :
    searchCounter base r (p + 2 * j) 256 0 = none := by
  induction n generalizing p j with
  | zero => omega
  | succ n ih =>
    rw [searchPrescaler] at h
    split at h
    next => cases h
    next hnone =>
      cases j with
      | zero => exact hnone
      | succ j =>
        have hshift : p + 2 * (j + 1) = p + 2 + 2 * j := by omega
        exact hshift ▸ ih h j (by omega)

/-! ### The first pair -/

/-- (p, s) is a legal pair that meets the inequality, and every legal pair before it in the search order misses it (R74). -/
def FirstPair (base r p s : Nat) : Prop :=
  (2 ≤ p ∧ p ≤ 254 ∧ p % 2 = 0 ∧ s ≤ 255 ∧ base / (p * (s + 1)) ≤ r) ∧
  ∀ p' s' : Nat, 2 ≤ p' → p' ≤ 254 → p' % 2 = 0 → s' ≤ 255 → (p' < p ∨ (p' = p ∧ s' < s)) → r < base / (p' * (s' + 1))

/-- A legal pair that meets the inequality is not before the first one. -/
theorem FirstPair.not_before {base r p s p' s' : Nat} (h : FirstPair base r p s) (hlow : 2 ≤ p') (hhigh : p' ≤ 254)
    (heven : p' % 2 = 0) (hs' : s' ≤ 255) (hmeets : base / (p' * (s' + 1)) ≤ r) : p < p' ∨ (p = p' ∧ s ≤ s') := by
  by_contra hbefore
  exact absurd (h.2 p' s' hlow hhigh heven hs' (by omega)) (not_lt.2 hmeets)

/-- There is one first pair at most: of two, neither is before the other. -/
theorem FirstPair.unique {base r p s p' s' : Nat} (h : FirstPair base r p s) (h' : FirstPair base r p' s') :
    (p, s) = (p', s') := by
  obtain ⟨hlow, hhigh, heven, hs, hmeets⟩ := h.1
  obtain ⟨hlow', hhigh', heven', hs', hmeets'⟩ := h'.1
  have hle := h.not_before hlow' hhigh' heven' hs' hmeets'
  have hge := h'.not_before hlow hhigh heven hs hmeets
  rw [Prod.mk.injEq]
  omega

/-- What the solver answers is the first pair. -/
theorem firstPair_of_calcDivisors {base r p s : Nat} (h : calcDivisors base r = some (p, s)) : FirstPair base r p s := by
  obtain ⟨⟨k, hk, rfl⟩, hsome, hbefore⟩ := searchPrescaler_eq_some h
  obtain ⟨-, hs, hmeets, hfirst⟩ := searchCounter_eq_some hsome
  refine ⟨⟨by omega, by omega, by omega, by omega, hmeets⟩, fun p' s' hlow hhigh heven hs' hord => ?_⟩
  rcases hord with hlt | ⟨rfl, hlt⟩
  · obtain ⟨j, rfl⟩ : ∃ j, p' = 2 + 2 * j := ⟨p' / 2 - 1, by omega⟩
    exact searchCounter_eq_none (hbefore j hlt) s' (Nat.zero_le _) (by omega)
  · exact hfirst s' (Nat.zero_le _) hlt

/-- Where the solver fails every legal pair misses the inequality. -/
theorem lt_div_of_calcDivisors_eq_none {base r p s : Nat} (h : calcDivisors base r = none) (hlow : 2 ≤ p)
    (hhigh : p ≤ 254) (heven : p % 2 = 0) (hs : s ≤ 255) : r < base / (p * (s + 1)) := by
  obtain ⟨j, rfl⟩ : ∃ j, p = 2 + 2 * j := ⟨p / 2 - 1, by omega⟩
  exact searchCounter_eq_none (searchPrescaler_eq_none h j (by omega)) s (Nat.zero_le _) (by omega)

/-- The solver answers exactly the first pair (R74). -/
theorem calcDivisors_eq_some_iff {base r p s : Nat} : calcDivisors base r = some (p, s) ↔ FirstPair base r p s := by
  refine ⟨firstPair_of_calcDivisors, fun h => ?_⟩
  cases hcalc : calcDivisors base r with
  | none =>
    obtain ⟨hlow, hhigh, heven, hs, hmeets⟩ := h.1
    exact absurd (lt_div_of_calcDivisors_eq_none hcalc hlow hhigh heven hs) (not_lt.2 hmeets)
  | some pair => exact congrArg some ((firstPair_of_calcDivisors hcalc).unique h)

/-- The solver fails exactly when every legal pair misses the inequality (R74). -/
theorem calcDivisors_eq_none_iff {base r : Nat} : calcDivisors base r = none ↔
    ∀ p s : Nat, 2 ≤ p → p ≤ 254 → p % 2 = 0 → s ≤ 255 → r < base / (p * (s + 1)) := by
  refine ⟨fun h p s => lt_div_of_calcDivisors_eq_none h, fun hmiss => ?_⟩
  cases hcalc : calcDivisors base r with
  | none => rfl
  | some pair =>
    obtain ⟨hlow, hhigh, heven, hs, hmeets⟩ := (firstPair_of_calcDivisors hcalc).1
    exact absurd (hmiss _ _ hlow hhigh heven hs) (not_lt.2 hmeets)

/-- Settles O11: the loops find the first pair, and there is no other. -/
theorem divisorIsFirstPair : Obligations.DivisorIsFirstPair :=
  fun _ _ => ⟨fun _ _ => calcDivisors_eq_some_iff, calcDivisors_eq_none_iff⟩

/-! ### The closed form -/

/-- The inequality without its division: the divisor p * (s + 1) reaches n = base / (r + 1) + 1. -/
theorem div_le_iff_succ_div_le {base r d : Nat} (hd : 0 < d) : base / d ≤ r ↔ base / (r + 1) + 1 ≤ d := by
  rw [← Nat.lt_succ_iff, Nat.div_lt_iff_lt_mul hd, Nat.succ_le_iff, Nat.div_lt_iff_lt_mul (Nat.succ_pos r), mul_comm]

/-- The counters at pre-scaler p that meet the inequality are those from ceil(n / p) - 1 on. -/
theorem div_le_iff_ceilDiv_le {base r p s : Nat} (hp : 0 < p) :
    base / (p * (s + 1)) ≤ r ↔ ceilDiv (base / (r + 1) + 1) p ≤ s + 1 := by
  rw [div_le_iff_succ_div_le (Nat.mul_pos hp s.succ_pos), ceilDiv, ← Nat.ceilDiv_eq_add_pred_div, ceilDiv_le_iff_le_mul hp]

/-- A pre-scaler has a counter that meets the inequality exactly when n is at most 256 times the pre-scaler. -/
theorem ceilDiv_le_256_iff {n p : Nat} (hp : 0 < p) : ceilDiv n p ≤ 256 ↔ n ≤ 256 * p := by
  rw [ceilDiv, ← Nat.ceilDiv_eq_add_pred_div, ceilDiv_le_iff_le_mul hp, mul_comm]

/-- The pre-scaler of the closed form (R75) is the least even one from 2 on that has a counter. -/
theorem closedPrescaler_le_iff {n p : Nat} (hlow : 2 ≤ p) (heven : p % 2 = 0) :
    max 2 (2 * ceilDiv (ceilDiv n 256) 2) ≤ p ↔ ceilDiv n p ≤ 256 := by
  rw [ceilDiv_le_256_iff (by omega)]
  simp only [ceilDiv]
  omega

/-- The closed form (R75) is the solver: its pre-scaler is the least that has a counter, its counter the least there. -/
theorem calcDivisors_eq_closed (base r : Nat) : calcDivisors base r = calcDivisorsClosed base r := by
  dsimp only [calcDivisorsClosed]
  generalize hn : base / (r + 1) + 1 = n
  generalize hP : max 2 (2 * ceilDiv (ceilDiv n 256) 2) = P
  have hmeets_iff {p s : Nat} (hlow : 2 ≤ p) : base / (p * (s + 1)) ≤ r ↔ ceilDiv n p ≤ s + 1 :=
    hn ▸ div_le_iff_ceilDiv_le (by omega)
  have hleast {p s : Nat} (hlow : 2 ≤ p) (heven : p % 2 = 0) (hs : s ≤ 255) (hlt : p < P) :
      r < base / (p * (s + 1)) := by
    have hcounter := (closedPrescaler_le_iff (n := n) hlow heven).not.1 (by omega)
    exact not_le.1 ((hmeets_iff hlow).not.2 (by omega))
  split
  next hhigh => exact calcDivisors_eq_none_iff.2 fun p s hlow hle heven hs => hleast hlow heven hs (by omega)
  next hhigh =>
    have hlow : 2 ≤ P := by omega
    have heven : P % 2 = 0 := by omega
    have hcounter : ceilDiv n P ≤ 256 := (closedPrescaler_le_iff hlow heven).1 hP.le
    refine calcDivisors_eq_some_iff.2
      ⟨⟨hlow, by omega, heven, by omega, (hmeets_iff hlow).2 (by omega)⟩, fun p s hlow' _ heven' hs hord => ?_⟩
    rcases hord with hlt | ⟨rfl, hlt⟩
    · exact hleast hlow' heven' hs hlt
    · exact not_le.1 ((hmeets_iff hlow').not.2 (by omega))

/-- Settles O9: the closed form, spelled out. -/
theorem divisorClosedForm : Obligations.DivisorClosedForm := calcDivisors_eq_closed

/-! ### Floor, ceiling and guarantees -/

/-- The solver fails exactly below MIN_HZ (R76): the last legal pair has the greatest divisor, 254 * 256. -/
theorem calcDivisors_eq_none_iff_lt {base r : Nat} : calcDivisors base r = none ↔ r < base / 65024 := by
  rw [calcDivisors_eq_none_iff]
  refine ⟨fun hmiss => hmiss 254 255 (by decide) (by decide) (by decide) (by decide), fun hlt p s hlow hhigh _ hs => ?_⟩
  have hdivisor : p * (s + 1) ≤ 65024 := Nat.mul_le_mul hhigh (Nat.succ_le_succ hs)
  exact hlt.trans_le (Nat.div_le_div_left hdivisor (Nat.mul_pos (by omega) s.succ_pos))

/-- No legal pair's floored rate exceeds MAX_HZ (R77). -/
theorem div_le_half {base p s : Nat} (hlow : 2 ≤ p) : base / (p * (s + 1)) ≤ base / 2 :=
  Nat.div_le_div_left (hlow.trans (Nat.le_mul_of_pos_right p s.succ_pos)) (by decide)

/-- Settles O10: the last pair decides failure, and (2, 0), which is before every other, the ceiling. -/
theorem divisorFloorAndCeiling : Obligations.DivisorFloorAndCeiling := by
  refine fun base r => ⟨calcDivisors_eq_none_iff_lt, ?_, fun hmax => ?_, fun p s h => ?_⟩
  · rw [calcDivisors_eq_none_iff_lt]; omega
  · exact calcDivisors_eq_some_iff.2
      ⟨⟨by decide, by decide, by decide, by decide, hmax⟩, fun p' s' hlow _ _ _ hord => by omega⟩
  · obtain ⟨⟨hlow, -⟩, -⟩ := calcDivisors_eq_some_iff.1 h
    exact div_le_half hlow

/-- An answer with pre-scaler 2 has the least divisor that meets the inequality: the divisor of a legal pair is even, so
pre-scaler 2 reaches it too, with a counter of its own. -/
theorem FirstPair.two_divisor_le {base r s p' s' : Nat} (h : FirstPair base r 2 s) (hlow : 2 ≤ p') (heven : p' % 2 = 0)
    (hmeets : base / (p' * (s' + 1)) ≤ r) : 2 * (s + 1) ≤ p' * (s' + 1) := by
  obtain ⟨⟨-, -, -, hs, -⟩, hfirst⟩ := h
  obtain ⟨k, rfl⟩ := Nat.dvd_of_mod_eq_zero heven
  have hpos : 0 < k * (s' + 1) := Nat.mul_pos (by omega) s'.succ_pos
  rw [mul_assoc] at hmeets ⊢
  by_contra hlt
  have hsame : k * (s' + 1) - 1 + 1 = k * (s' + 1) := by omega
  have hmiss := hfirst 2 (k * (s' + 1) - 1) le_rfl (by decide) rfl (by omega) (.inr ⟨rfl, by omega⟩)
  rw [hsame] at hmiss
  exact absurd hmiss (not_lt.2 hmeets)

/-- Settles O12: the first pair's inequality, the least divisor at pre-scaler 2, and the closed form at R78's example. -/
theorem divisorGuarantees : Obligations.DivisorGuarantees := by
  refine ⟨fun base r p s h => ?_, fun base r s₂ hs₂ hmeets => ?_, ?_, by decide, by decide⟩
  · obtain ⟨-, -, -, -, hmeets⟩ := (calcDivisors_eq_some_iff.1 h).1
    exact hmeets
  · cases hcalc : calcDivisors base r with
    | none =>
      exact absurd (calcDivisors_eq_none_iff.1 hcalc 2 s₂ le_rfl (by decide) rfl hs₂) (not_lt.2 hmeets)
    | some pair =>
      obtain ⟨p, s⟩ := pair
      have hfirst := calcDivisors_eq_some_iff.1 hcalc
      obtain ⟨hlow, -⟩ := hfirst.1
      have hle := hfirst.not_before le_rfl (by decide) rfl hs₂ hmeets
      obtain rfl : p = 2 := by omega
      exact ⟨s, rfl, fun p' s' hlow _ heven _ hmeets' =>
        Nat.div_le_div_left (hfirst.two_divisor_le hlow heven hmeets') (Nat.mul_pos (by decide) s.succ_pos)⟩
  · rw [calcDivisors_eq_closed]; decide

/-! ### CALC_DIVISORS -/

/-- DIVRES of a pair as one number (R80). -/
theorem divResOk_eq_ofNat (p c : Nat) : divResOk p c = BitVec.ofNat 32 (c % 256 * 256 + p % 256) := by
  have hlow : (p % 256) < 2 ^ 8 := Nat.mod_lt p (by decide)
  apply BitVec.eq_of_toNat_eq
  simp only [divResOk, BitVec.toNat_or, BitVec.toNat_shiftLeft, BitVec.toNat_setWidth, BitVec.toNat_ofNat]
  rw [Nat.mod_eq_of_lt (a := p % 2 ^ 8) (by omega), Nat.mod_eq_of_lt (a := c % 2 ^ 8) (by omega),
    Nat.mod_eq_of_lt (a := (c % 2 ^ 8) <<< 8) (by omega), ← Nat.shiftLeft_add_eq_or_of_lt hlow]
  omega

/-- In its required state CALC_DIVISORS is its body (R80). -/
theorem exec_calcDivisors_of_attached {s : State} (h : Free s) (hlife : s.life = .attached) :
    exec .calcDivisors s = calcBody s := by
  rw [exec_of_free h, startCommand_of_required (by simp [requiredState, hlife])]
  rfl

/-- Settles O13: the body's three outcomes. -/
theorem calcDivisorsCompletes : Obligations.CalcDivisorsCompletes := by
  intro s hs hlife
  rw [exec_calcDivisors_of_attached hs hlife, calcBody]
  refine ⟨fun r p c hspeed hcalc => ?_, fun r hspeed hcalc => ?_, fun hspeed => ?_⟩
  · simp only [hspeed, hcalc, ret, returned, divResOk_eq_ofNat]
  · simp only [hspeed, hcalc, ret, returned, divResFail]
  · simp only [hspeed, raiseFault]

end Sys2Proof.Machine
end

section
/-! SUPPORT. What BLOCK does at each position of an instruction in execution (exec_of_at) and at its start, and the two
rules of a run of BLOCK alone (RunsTo): a step that goes on and a step that ends it. -/

namespace Sys2Proof.Machine

/-- What BLOCK does at a position of the instruction in execution (exec_of_at); PH = Ready is no such position. -/
def resumed : Phase → State → Out
  | .ready, s => noStep s
  | .attach k, s => attachStep k s
  | .detach k, s => .next (detachStep k s)
  | .prepareHw k, s => prepareHwStep k s
  | .unprepareHw k, s => unprepareHwStep k s
  | .prepareMsg k, s => flushStep k s
  | .transferOne k, s => transferStep k s
  | .calcDivisors, s => calcBody s
  | .evtIrq k, s => irqStep k s
  | .evtDmaRxDone k, s => dmaDoneStep k s

/-- At a position of its own, with no fault, an instruction is the step of that position (R22, R120). -/
theorem exec_of_at {p : Phase} {s : State} {i : Instr} (h : At p s) (hi : phaseOp p = some i) : exec i s = resumed p s := by
  obtain ⟨hfaults, hph⟩ := h
  cases p <;> cases hi <;>
    simp only [exec, execAttach, execDetach, execPrepareHw, execUnprepareHw, execPrepareMsg, execTransferOne,
      execCalcDivisors, execEvtIrq, execEvtDmaRxDone, stopped_nil hfaults, hph] <;> rfl

/-- In its required state an instruction offered at PH = Ready is its start (R70). -/
theorem exec_of_required {s : State} {i : Instr} (h : Free s) (hr : requiredState s i = true) : exec i s = begun i s :=
  (exec_of_free h i).trans (startCommand_of_required hr _)

/-- Outside its required state an instruction offered at PH = Ready raises BadState (R70). -/
theorem exec_of_not_required {s : State} {i : Instr} (h : Free s) (hr : requiredState s i = false) :
    exec i s = .next (raised .badState s) := (exec_of_free h i).trans (startCommand_of_not_required hr _)

/-- Two states that differ at most in the draw the environment last gave. -/
def SameButDraw (t t' : State) : Prop := { t with answer := false } = { t' with answer := false }

theorem SameButDraw.answer_eq {t t' : State} (h : SameButDraw t t') (a : Bool) :
    { t with answer := a } = { t' with answer := a } := congrArg (fun u : State => { u with answer := a }) h

/-- BLOCK running alone ends in t, up to the draw its last step was given. -/
def RunsTo (bs : List Bool) (i : Instr) (s t : State) : Prop :=
  ∃ a : Bool, blockRun bs i s = .next { t with answer := a }

/-- A step back to PH = Ready ends the run. -/
theorem RunsTo.last {i : Instr} {b : Bool} {bs : List Bool} {s u t : State}
    (h : exec i { s with answer := b } = .next u) (hready : u.ph = .ready) (ht : SameButDraw u t) :
    RunsTo (b :: bs) i s t := by
  refine ⟨u.answer, ?_⟩
  rw [blockRun, h, ← ht.answer_eq]
  exact if_pos (.inl hready)

/-- A step to another position of the instruction, with no fault, is followed by the rest of the run. -/
theorem RunsTo.cons {i : Instr} {b : Bool} {bs : List Bool} {s u t t' : State}
    (h : exec i { s with answer := b } = .next u) (hfaults : u.faults = []) (hph : phaseOp u.ph = some i)
    (hrest : RunsTo bs i u t) (ht : SameButDraw t t') : RunsTo (b :: bs) i s t' := by
  have hbusy : u.ph ≠ .ready := fun hready => by simp [hready, phaseOp] at hph
  obtain ⟨a, hrun⟩ := hrest
  refine ⟨a, ?_⟩
  rw [blockRun, h, ← ht.answer_eq, ← hrun]
  exact if_neg (by simp [hbusy, hfaults])

end Sys2Proof.Machine
end

section
/-! SUPPORT. The lifecycle commands ATTACH and DETACH (R81, R82): each step, then the runs of BLOCK alone. -/

namespace Sys2Proof.Machine

/-- Releasing a channel that is not held changes nothing (R99). -/
theorem Chan.released_eq {c : Chan} (h : c.held = false) : { c with held := false } = c := by
  cases c; cases h; rfl

/-! ### ATTACH -/

/-- What ATTACH leaves when it has obtained all of its DMA resources, or keeps none of them (R81). -/
def attachEnd (s : State) (got : Bool) : State :=
  attachTail { s with
    scratchValid := got, dmaAv := got, rx := { s.rx with held := got }, tx := { s.tx with held := got } }

/-- With no channel held the else branch of ATTACH has nothing to release (R81). -/
theorem attachRelease_of_none_held {s : State} (hrx : s.rx.held = false) (htx : s.tx.held = false) :
    attachRelease s = attachEnd s false := by
  rw [attachRelease, if_neg (by simp [hrx]), attachEnd, Chan.released_eq hrx, Chan.released_eq htx]; rfl

theorem exec_attach_of_detached {s : State} (h : Free s) (hlife : s.life = .detached) :
    exec .attach s = .next (moveTo (.attach .writeCr1) s) :=
  exec_of_required h (by simp [requiredState, hlife])

theorem exec_attach_page_refused {s : State} (h : At (.attach .writeCr1) s) (ha : s.answer = false)
    (hrx : s.rx.held = false) (htx : s.tx.held = false) :
    exec .attach s = .next (attachEnd (attachFirst (setSsp s { s.ssp with cr1 := 0 })) false) := by
  simp only [exec_of_at h rfl, resumed, attachStep, ioWrite32_cr1, bindOut_ok, setSsp_answer, ha, Bool.false_eq_true,
    if_false]
  exact congrArg _ (attachRelease_of_none_held hrx htx)

theorem exec_attach_page_granted {s : State} (h : At (.attach .writeCr1) s) (ha : s.answer = true) :
    exec .attach s = .next (moveTo (.attach .acquireRx)
      { attachFirst (setSsp s { s.ssp with cr1 := 0 }) with scratchValid := true }) := by
  simp only [exec_of_at h rfl, resumed, attachStep, ioWrite32_cr1, bindOut_ok, setSsp_answer, ha, if_true]

theorem exec_attach_rx_refused {s : State} (h : At (.attach .acquireRx) s) (ha : s.answer = false)
    (hrx : s.rx.held = false) (htx : s.tx.held = false) : exec .attach s = .next (attachEnd s false) := by
  simp only [exec_of_at h rfl, resumed, attachStep, ha, Bool.false_eq_true, if_false, attachRelease_of_none_held hrx htx]

theorem exec_attach_rx_granted {s : State} (h : At (.attach .acquireRx) s) (ha : s.answer = true) :
    exec .attach s = .next (moveTo (.attach .acquireTx) (setHeld s .rx true)) := by
  simp only [exec_of_at h rfl, resumed, attachStep, ha, if_true]

theorem exec_attach_tx_refused {s : State} (h : At (.attach .acquireTx) s) (ha : s.answer = false)
    (hrx : s.rx.held = true) : exec .attach s = .next (moveTo (.attach .releaseRx) s) := by
  simp only [exec_of_at h rfl, resumed, attachStep, ha, Bool.false_eq_true, if_false, attachRelease, hrx, if_true]

theorem exec_attach_tx_granted {s : State} (h : At (.attach .acquireTx) s) (ha : s.answer = true) :
    exec .attach s = .next (attachTail { setHeld s .tx true with dmaAv := true }) := by
  simp only [exec_of_at h rfl, resumed, attachStep, ha, if_true]

/-- The last release leaves no channel held, TX's not having been acquired (R81). -/
theorem exec_attach_releaseRx {s : State} (h : At (.attach .releaseRx) s) (htx : s.tx.held = false) :
    exec .attach s = .next (attachEnd s false) := by
  rw [exec_of_at h rfl, attachEnd, Chan.released_eq htx]; rfl

/-- ATTACH from its last draw on: TX's channel is acquired too, or RX's is released (R81). -/
theorem runsTo_attach_of_acquireTx {s : State} (h : At (.attach .acquireTx) s) (hrx : s.rx.held = true)
    (htx : s.tx.held = false) (hpage : s.scratchValid = true) (okt b : Bool) :
    RunsTo [okt, b] .attach s (attachEnd s okt) := by
  cases okt with
  | false =>
    exact .cons (exec_attach_tx_refused h rfl hrx) h.1 rfl (.last (exec_attach_releaseRx ⟨h.1, rfl⟩ htx) rfl rfl) rfl
  | true =>
    have hend : attachTail { setHeld s .tx true with dmaAv := true } = attachEnd s true := by
      simp [attachEnd, attachTail, returned, clearChan, setHeld, hrx, hpage]
    rw [← hend]
    exact .last (exec_attach_tx_granted h rfl) rfl rfl

/-- ATTACH from the draw of RX's channel on (R81). -/
theorem runsTo_attach_of_acquireRx {s : State} (h : At (.attach .acquireRx) s) (hrx : s.rx.held = false)
    (htx : s.tx.held = false) (hpage : s.scratchValid = true) (okr okt b : Bool) :
    RunsTo [okr, okt, b] .attach s (attachEnd s (okr && okt)) := by
  cases okr with
  | false => exact .last (exec_attach_rx_refused h rfl hrx htx) rfl rfl
  | true =>
    let u : State := moveTo (.attach .acquireTx) (setHeld { s with answer := true } .rx true)
    have hrest := runsTo_attach_of_acquireTx (s := u) ⟨h.1, rfl⟩ rfl htx hpage okt b
    exact .cons (exec_attach_rx_granted h rfl) h.1 rfl hrest (by cases s; rfl)

/-- ATTACH from its CR1 write and the draw of the page on (R81). -/
theorem runsTo_attach_of_writeCr1 {s : State} (h : At (.attach .writeCr1) s) (hrx : s.rx.held = false)
    (htx : s.tx.held = false) (okp okr okt b : Bool) :
    RunsTo [okp, okr, okt, b] .attach s
      (attachEnd (attachFirst (setSsp s { s.ssp with cr1 := 0 })) (okp && okr && okt)) := by
  cases okp with
  | false => exact .last (exec_attach_page_refused h rfl hrx htx) rfl rfl
  | true =>
    let u : State := attachFirst (setSsp { s with answer := true } { s.ssp with cr1 := 0 })
    let v : State := moveTo (.attach .acquireRx) { u with scratchValid := true }
    have hrest := runsTo_attach_of_acquireRx (s := v) ⟨h.1, rfl⟩ hrx htx rfl okr okt b
    exact .cons (exec_attach_page_granted h rfl) h.1 rfl hrest (by cases s; rfl)

/-- ATTACH from its start on (R81). -/
theorem runsTo_attach {s : State} (hs : Free s) (hlife : s.life = .detached) (hrx : s.rx.held = false)
    (htx : s.tx.held = false) (b₀ okp okr okt b₁ : Bool) :
    RunsTo [b₀, okp, okr, okt, b₁] .attach s
      (attachEnd (attachFirst (setSsp s { s.ssp with cr1 := 0 })) (okp && okr && okt)) := by
  let u : State := moveTo (.attach .writeCr1) { s with answer := b₀ }
  have hrest := runsTo_attach_of_writeCr1 (s := u) ⟨hs.1, rfl⟩ hrx htx okp okr okt b₁
  exact .cons (exec_attach_of_detached hs hlife) hs.1 rfl hrest rfl

/-- Settles O14: the run draw by draw, its first step, and its last one when the last Acquire is granted. -/
theorem attachRuns : Obligations.AttachRuns := by
  refine ⟨fun s b₀ okp okr okt b₁ hs hlife hrx htx => ?_, fun s hs hlife => exec_attach_of_detached hs hlife,
    fun s hs ha => exec_attach_tx_granted hs ha⟩
  obtain ⟨a, hrun⟩ := runsTo_attach hs hlife hrx htx b₀ okp okr okt b₁
  refine ⟨a, hrun.trans ?_⟩
  cases s; rfl

/-! ### DETACH -/

/-- Detached, DETACH is a no-op (R82). -/
theorem exec_detach_of_detached {s : State} (h : Free s) (hlife : s.life = .detached) :
    exec .detach s = .next (returned .ok s) := by
  rw [exec_of_required h (by simp [requiredState, hlife])]
  exact congrArg _ (if_pos hlife)

/-- Attached, idle and unprepared, DETACH starts with TX's release, or goes on to RX when TX is not held (R82). -/
theorem exec_detach_of_attached {s : State} (h : Free s) (hlife : s.life = .attached) (hfsm : s.fsm = .idle)
    (hhwp : s.hwp = false) :
    exec .detach s = .next (if s.tx.held then moveTo (.detach .releaseTx) s else detachRx s) := by
  rw [exec_of_required h (by simp [requiredState, hlife, hfsm, hhwp])]
  exact congrArg _ (if_neg (by simp [hlife]))

theorem exec_detach_releaseTx {s : State} (h : At (.detach .releaseTx) s) :
    exec .detach s = .next (detachRx (setHeld s .tx false)) := exec_of_at h rfl

theorem exec_detach_releaseRx {s : State} (h : At (.detach .releaseRx) s) :
    exec .detach s = .next (detachTail (setHeld s .rx false)) := exec_of_at h rfl

/-- A DETACH step that goes on to RX ends with RX's channel released, at once or in one more step (R82). -/
theorem runsTo_detach_of_detachRx {s u t : State} {b b' : Bool} {bs : List Bool}
    (h : exec .detach { s with answer := b } = .next (detachRx u)) (hfaults : u.faults = [])
    (ht : SameButDraw (detachTail (setHeld u .rx false)) t) : RunsTo (b :: b' :: bs) .detach s t := by
  cases hrx : u.rx.held with
  | false =>
    have hnone : detachRx u = detachTail (setHeld u .rx false) := by
      rw [detachRx, if_neg (by simp [hrx]), setHeld, chan_rx, Chan.released_eq hrx]; rfl
    exact .last (h.trans (congrArg _ hnone)) rfl ht
  | true =>
    have hheld : detachRx u = moveTo (.detach .releaseRx) u := if_pos hrx
    exact .cons (h.trans (congrArg _ hheld)) hfaults rfl (.last (exec_detach_releaseRx ⟨hfaults, rfl⟩) rfl rfl) ht

/-- Attached, idle and unprepared, DETACH releases both channels, one that is not held in no step of its
own (R82). -/
theorem runsTo_detach {s : State} (hs : Free s) (hlife : s.life = .attached) (hfsm : s.fsm = .idle)
    (hhwp : s.hwp = false) (b₀ b₁ b₂ : Bool) :
    RunsTo [b₀, b₁, b₂] .detach s (detachTail (setHeld (setHeld s .tx false) .rx false)) := by
  have hstart := exec_detach_of_attached (s := { s with answer := b₀ }) hs hlife hfsm hhwp
  cases htx : s.tx.held with
  | false =>
    rw [if_neg (by simp [htx])] at hstart
    have hkept : setHeld s .tx false = s := by rw [setHeld, chan_tx, Chan.released_eq htx]; rfl
    rw [hkept]
    exact runsTo_detach_of_detachRx hstart hs.1 rfl
  | true =>
    rw [if_pos htx] at hstart
    exact .cons hstart hs.1 rfl (runsTo_detach_of_detachRx (exec_detach_releaseTx ⟨hs.1, rfl⟩) hs.1 rfl) rfl

/-- Settles O15: the no-op, the run, and its last step. -/
theorem detachRuns : Obligations.DetachRuns := by
  refine ⟨fun s hs hlife => exec_detach_of_detached hs hlife, fun s b₀ b₁ b₂ hs hlife hfsm hhwp => ?_,
    fun s hs => exec_detach_releaseRx hs⟩
  obtain ⟨a, hrun⟩ := runsTo_detach hs hlife hfsm hhwp b₀ b₁ b₂
  refine ⟨a, hrun.trans ?_⟩
  cases s; rfl

end Sys2Proof.Machine
end

section
/-! SUPPORT. PREPARE_HW, UNPREPARE_HW and PREPARE_MSG (R83 to R86), step by step. -/

namespace Sys2Proof.Machine

/-- Settles O16: the start, the two positions of its CR1 read-modify-write, and BadState elsewhere. -/
theorem prepareHwSetsSse : Obligations.PrepareHwSetsSse := by
  refine fun s => ⟨fun hs hlife hfsm hhwp => ?_, fun hs hnot => ?_, fun hs => ?_, fun v hs => ?_⟩
  · exact exec_of_required hs (by simp [requiredState, hlife, hfsm, hhwp])
  · exact exec_of_not_required hs (by simpa [requiredState, and_assoc] using hnot)
  · exact exec_of_at hs rfl
  · exact exec_of_at hs rfl

/-- Settles O17: the start, the two positions of its CR1 read-modify-write, and BadState elsewhere. -/
theorem unprepareHwClearsSse : Obligations.UnprepareHwClearsSse := by
  refine fun s => ⟨fun hs hlife hfsm hhwp => ?_, fun hs hnot => ?_, fun hs => ?_, fun v hs => ?_⟩
  · exact exec_of_required hs (by simp [requiredState, hlife, hfsm, hhwp])
  · exact exec_of_not_required hs (by simpa [requiredState, and_assoc] using hnot)
  · exact exec_of_at hs rfl
  · exact exec_of_at hs rfl

/-! ### PREPARE_MSG -/

theorem ioRead32_dr_of_nil {s : State} (h : s.ssp.rxq = []) :
    ioRead32 (sspOffset .dr) s = .error (raiseFault .rxFifoUnderflow s) := by
  rcases ioRead32_dr s with ⟨-, hd⟩ | ⟨u, q, hq, -⟩
  · exact hd
  · rw [h] at hq; cases hq

theorem ioRead32_dr_of_cons {s : State} {u : FifoUnit} {q : List FifoUnit} (h : s.ssp.rxq = u :: q) :
    ioRead32 (sspOffset .dr) s = .ok (u.setWidth 32, setSsp s { s.ssp with rxq := q }) := by
  rcases ioRead32_dr s with ⟨hq, -⟩ | ⟨u', q', hq, hd⟩
  · rw [h] at hq; cases hq
  · rw [h] at hq; cases hq; exact hd

theorem exec_prepareMsg_of_prepared {s : State} (h : Free s) (hlife : s.life = .attached) (hfsm : s.fsm = .idle)
    (hhwp : s.hwp = true) :
    exec .prepareMsg s = .next { s with msgSt := .ok, expired := false, ph := .prepareMsg .readSr } :=
  exec_of_required h (by simp [requiredState, hlife, hfsm, hhwp])

/-- The SR read tests RNE first and the expiry second (R86). -/
theorem exec_prepareMsg_readSr {s : State} (h : At (.prepareMsg .readSr) s) :
    exec .prepareMsg s =
      if rne s.ssp then (if s.expired then ret .flushTimeout s else goto (.prepareMsg .readDr) s)
      else ret .ok { s with fifoLvl := 0 } := by
  rw [exec_of_at h rfl, ← srValue_rne]; rfl

theorem exec_prepareMsg_empty {s : State} (h : At (.prepareMsg .readSr) s) (hrxq : s.ssp.rxq = []) :
    exec .prepareMsg s = .next (returned .ok { s with fifoLvl := 0 }) :=
  (exec_prepareMsg_readSr h).trans (if_neg fun hrne => rne_iff.1 hrne hrxq)

theorem exec_prepareMsg_timeout {s : State} (h : At (.prepareMsg .readSr) s) (hrxq : s.ssp.rxq ≠ [])
    (hexp : s.expired = true) : exec .prepareMsg s = .next (returned .flushTimeout s) := by
  rw [exec_prepareMsg_readSr h, if_pos (rne_iff.2 hrxq), if_pos hexp, ret_eq]

theorem exec_prepareMsg_more {s : State} (h : At (.prepareMsg .readSr) s) (hrxq : s.ssp.rxq ≠ [])
    (hexp : s.expired = false) : exec .prepareMsg s = .next (moveTo (.prepareMsg .readDr) s) := by
  rw [exec_prepareMsg_readSr h, if_pos (rne_iff.2 hrxq), if_neg (by simp [hexp]), goto_eq]

/-- The DR read discards the head of RXQ (R86). -/
theorem exec_prepareMsg_discard {s : State} {u : FifoUnit} {q : List FifoUnit} (h : At (.prepareMsg .readDr) s)
    (hrxq : s.ssp.rxq = u :: q) :
    exec .prepareMsg s = .next (moveTo (.prepareMsg .readSr) (setSsp s { s.ssp with rxq := q })) := by
  rw [exec_of_at h rfl, resumed, flushStep, ioRead32_dr_of_cons hrxq, bindOut_ok, goto_eq]

theorem exec_prepareMsg_underflow {s : State} (h : At (.prepareMsg .readDr) s) (hrxq : s.ssp.rxq = []) :
    exec .prepareMsg s = .next (raised .rxFifoUnderflow s) := by
  rw [exec_of_at h rfl, resumed, flushStep, ioRead32_dr_of_nil hrxq, bindOut_error, raiseFault_eq]

/-- Settles O18: the start, each answer of the two positions, and CLOCK by its enabling condition. -/
theorem prepareMsgFlushes : Obligations.PrepareMsgFlushes := by
  refine fun s => ⟨exec_prepareMsg_of_prepared, exec_prepareMsg_empty, exec_prepareMsg_timeout, exec_prepareMsg_more,
    fun u q => exec_prepareMsg_discard, exec_prepareMsg_underflow, fun ⟨k, hk⟩ => ?_, fun hne => ?_⟩
  · rw [perform, clockStep, hk]
  · rcases clockStep_cases s with h | ⟨⟨k, hk⟩, -⟩
    · rw [perform, h]
    · exact absurd hk (hne k)

end Sys2Proof.Machine
end

section
/-! SUPPORT. The bound of the flush (R86): the units in both queues over one step, and the run of a flush that is not cut
off. -/

namespace Sys2Proof.Machine

/-- The units in both queues of the SSP (R42). -/
def queued (p : Ssp) : Nat := p.rxq.length + p.txq.length

/-- A step adds no unit to the queues, and takes one out where it discards one (R86). -/
def NoUnitAdded (s t : State) : Prop :=
  queued t.ssp ≤ queued s.ssp ∧
    (s.ph = .prepareMsg .readDr → t.ph = .prepareMsg .readSr → queued t.ssp + 1 = queued s.ssp)

/-- A step that leaves PH alone discards nothing. -/
theorem NoUnitAdded.of_same_phase {s t : State} (hph : t.ph = s.ph) (h : queued t.ssp ≤ queued s.ssp) : NoUnitAdded s t :=
  ⟨h, fun hs ht => by rw [hph, hs] at ht; cases ht⟩

/-- A shift moves a unit from TXQ to RXQ or loses it (R123). -/
theorem queued_sspShift_le (v : FifoUnit) (p : Ssp) : queued (sspShift v p) ≤ queued p := by
  rcases sspShift_cases v p with h | ⟨u, q, hq, -, ⟨-, h⟩ | ⟨-, h⟩⟩ <;> rw [h]
  · simp only [queued, hq, List.length_append, List.length_cons, List.length_nil]; omega
  · simp only [queued, hq, List.length_cons]; omega

/-- A DMA_RX step adds no unit (R124). -/
theorem dmaRxStep_noUnitAdded (s : State) : NoUnitAdded s (dmaRxStep s) := by
  rcases dmaRxStep_cases s with h | ⟨-, -, u, q, m, r, hq, h, -, -⟩ <;> rw [h]
  · exact .of_same_phase rfl le_rfl
  · exact .of_same_phase rfl (by simp only [queued, hq, List.length_cons]; omega)

/-- A BLOCK step in PREPARE_MSG reads SR, discards a unit or ends (R86). -/
theorem BlockStep.noUnitAdded {i : Instr} {k : FlushPos} {s t : State} (h : BlockStep i s t) (hp : s.ph = .prepareMsg k) :
    NoUnitAdded s t := by
  obtain rfl : i = .prepareMsg := by
    rcases h.phase_at with h | h <;> rw [hp] at h <;> cases h; rfl
  cases h with
  | badState hr | prepareMsgStart hr => rw [hp] at hr; cases hr
  | flushEmpty hk | flushTimeout hk | flushMore hk =>
    exact ⟨le_rfl, fun hs => by rw [hk] at hs; cases hs⟩
  | flushDiscard _ hq => exact ⟨by simp [queued, hq], fun _ _ => by simp [queued, hq]; omega⟩
  | flushUnderflow => exact .of_same_phase rfl le_rfl
  | engineDrain hi | engineFill hi | enginePop hi | enginePopFault hi | enginePush hi | enginePushFault hi => cases hi

/-- With DMA_TX not issued, no agent's step in PREPARE_MSG adds a unit (R86). -/
theorem AgentStep.noUnitAdded {a : Action} {k : FlushPos} {s t : State} (h : AgentStep a s t)
    (hp : s.ph = .prepareMsg k) (htx : s.tx.desc ≠ .issued) : NoUnitAdded s t := by
  have hready : s.ph ≠ .ready := by rw [hp]; nofun
  cases h with
  | block _ _ hb => exact hb.noUnitAdded hp
  | event hr | command hr | illegalCommand hr | argWrite hr => exact absurd hr hready
  | idle | blockIdle | illegalAccess | hostRead | hostMemWrite => exact .of_same_phase rfl le_rfl
  | shift => exact .of_same_phase rfl (queued_sspShift_le _ _)
  | dmaRx => exact dmaRxStep_noUnitAdded s
  | dmaTx =>
    rcases dmaTxStep_cases s with h | ⟨hd, -⟩
    · rw [h]; exact .of_same_phase rfl le_rfl
    · exact absurd hd htx
  | clock =>
    rcases clockStep_cases s with h | ⟨-, h⟩ <;> rw [h] <;> exact .of_same_phase rfl le_rfl

/-- What a flush that empties RXQ leaves (R86). -/
def flushed (s : State) : State := returned .ok { setSsp s { s.ssp with rxq := [] } with fifoLvl := 0 }

/-- A flush alone and not expired reads SR and DR once for each unit of RXQ, and SR once more (R86). -/
theorem runsTo_flush (q : List FifoUnit) : ∀ {s : State} {bs : List Bool}, At (.prepareMsg .readSr) s →
    s.expired = false → s.ssp.rxq = q → bs.length = 2 * q.length + 1 → RunsTo bs .prepareMsg s (flushed s) := by
  induction q with
  | nil =>
    intro s bs h hexp hq hlen
    obtain ⟨b, rfl⟩ := List.length_eq_one_iff.1 hlen
    have hkept : { s.ssp with rxq := [] } = s.ssp := by rw [← hq]
    rw [flushed, hkept]
    exact .last (exec_prepareMsg_empty h hq) rfl rfl
  | cons u q ih =>
    intro s bs h hexp hq hlen
    match bs, hlen with
    | b :: b' :: bs, hlen =>
      have hne : s.ssp.rxq ≠ [] := by simp [hq]
      let v : State := moveTo (.prepareMsg .readDr) { s with answer := b }
      let w : State := moveTo (.prepareMsg .readSr) (setSsp { v with answer := b' } { s.ssp with rxq := q })
      have hrest := ih (s := w) (bs := bs) ⟨h.1, rfl⟩ hexp rfl (by simp at hlen; omega)
      have hdiscard := exec_prepareMsg_discard (s := { v with answer := b' }) ⟨h.1, rfl⟩ hq
      exact .cons (exec_prepareMsg_more h hne hexp) h.1 rfl (.cons hdiscard h.1 rfl hrest rfl) (by cases s; rfl)

/-- PREPARE_MSG alone: its start, then the flush (R85, R86). -/
theorem runsTo_prepareMsg {s : State} {bs : List Bool} (hs : Free s) (hlife : s.life = .attached) (hfsm : s.fsm = .idle)
    (hhwp : s.hwp = true) (hlen : bs.length = 2 * s.ssp.rxq.length + 2) :
    RunsTo bs .prepareMsg s (flushed { s with msgSt := .ok, expired := false }) := by
  match bs, hlen with
  | b :: bs, hlen =>
    let u : State := { s with answer := b }
    let v : State := { u with msgSt := .ok, expired := false, ph := .prepareMsg .readSr }
    have hstart : exec .prepareMsg u = .next v := exec_prepareMsg_of_prepared hs hlife hfsm hhwp
    have hrest := runsTo_flush s.ssp.rxq (s := v) (bs := bs) ⟨hs.1, rfl⟩ rfl rfl (by simpa using hlen)
    exact .cons hstart hs.1 rfl hrest (by cases s; rfl)

/-- Settles O19: the bound agent by agent, and the run by induction on RXQ. -/
theorem flushIsBounded : Obligations.FlushIsBounded := by
  refine ⟨fun s t k hp htx h => ?_, fun s bs hs hlife hfsm hhwp hlen => ?_⟩
  · obtain ⟨l, n, ha⟩ := step_next h
    obtain ⟨hle, hdiscard⟩ := ha.noUnitAdded hp htx
    exact ⟨hle, hdiscard⟩
  · obtain ⟨a, hrun⟩ := runsTo_prepareMsg hs hlife hfsm hhwp hlen
    refine ⟨a, hrun.trans ?_⟩
    cases s; rfl

end Sys2Proof.Machine
end

section
/-! SUPPORT. TRANSFER_ONE's validation (R88) and configuration writes (R89, R95): the request's check item by item, the two
configuration words as numbers, and the choice of path. -/

namespace Sys2Proof.Machine

/-! ### Validation -/

/-- R88 items 1 to 6, as a disjunction. -/
def Malformed (p : Params) (c : Word) (l : Leg) : Prop :=
  (l.bpw.toNat < 4 ∨ 16 < l.bpw.toNat) ∨
    c &&& 0xFFFFCCE0 ≠ 0 ∨
    (8 < l.bpw.toNat ∧ l.len.toNat % 2 = 1) ∨
    (8 < l.bpw.toNat ∧ ((l.txp = true ∧ l.tx.toNat % 2 = 1) ∨ (l.rxp = true ∧ l.rx.toNat % 2 = 1))) ∨
    ((l.txp = true ∧ 2 ^ p.addrW ≤ l.tx.toNat) ∨ (l.rxp = true ∧ 2 ^ p.addrW ≤ l.rx.toNat)) ∨
    ((l.txp = true ∧ 2 ^ p.addrW < l.tx.toNat + l.len.toNat) ∨
      (l.rxp = true ∧ 2 ^ p.addrW < l.rx.toNat + l.len.toNat))

/-- A present buffer's address fails by its parity, its width or its end (R88 items 4, 5, 6). -/
theorem addrValid_iff {p : Params} {l : Leg} {present : Bool} {a : Word} :
    addrValid p l present a = true ↔
      ¬ (8 < l.bpw.toNat ∧ present = true ∧ a.toNat % 2 = 1) ∧ ¬ (present = true ∧ 2 ^ p.addrW ≤ a.toNat) ∧
        ¬ (present = true ∧ 2 ^ p.addrW < a.toNat + l.len.toNat) := by
  cases present <;> simp [addrValid, and_assoc, imp_iff_not_or]

/-- Validate() accepts exactly the requests that are not malformed (R88). -/
theorem requestValid_iff {p : Params} {c : Word} {l : Leg} : requestValid p c l = true ↔ ¬ Malformed p c l := by
  have hrsv : (cfgRsv c == 0) = true ↔ ¬ c &&& 0xFFFFCCE0 ≠ 0 := by rw [beq_iff_eq, ne_eq, not_not]; rfl
  have hlen : (!(decide (8 < l.bpw.toNat) && l.len.toNat % 2 == 1)) = true ↔
      ¬ (8 < l.bpw.toNat ∧ l.len.toNat % 2 = 1) := by simp [imp_iff_not_or]
  simp only [requestValid, Malformed, Bool.and_eq_true, addrValid_iff, hrsv, hlen, decide_eq_true_eq, and_or_left, not_or,
    not_lt]
  constructor
  · rintro ⟨⟨⟨⟨hwidth, hrsv⟩, hlen⟩, htx, htx', htx''⟩, hrx, hrx', hrx''⟩
    exact ⟨hwidth, hrsv, hlen, ⟨htx, hrx⟩, ⟨htx', hrx'⟩, htx'', hrx''⟩
  · rintro ⟨hwidth, hrsv, hlen, ⟨htx, hrx⟩, ⟨htx', hrx'⟩, htx'', hrx''⟩
    exact ⟨⟨⟨⟨hwidth, hrsv⟩, hlen⟩, htx, htx', htx''⟩, hrx, hrx', hrx''⟩

theorem exec_transferOne_of_prepared {s : State} (h : Free s) (hlife : s.life = .attached) (hfsm : s.fsm = .idle)
    (hhwp : s.hwp = true) : exec .transferOne s = transferStart s :=
  exec_of_required h (by simp [requiredState, hlife, hfsm, hhwp])

theorem transferStart_of_malformed {s : State} {c : Word} {l : Leg} (hreq : readRequest s.args = some (c, l))
    (h : Malformed s.params c l) :
    transferStart s = .next (raised .malformedRequest { s with ph := .transferOne .start }) := by
  rw [transferStart, hreq]
  exact if_neg fun hvalid => requestValid_iff.1 hvalid h

theorem transferStart_of_not_malformed {s : State} {c : Word} {l : Leg} (hreq : readRequest s.args = some (c, l))
    (h : ¬ Malformed s.params c l) : transferStart s = transferLatch l s := by
  rw [transferStart, hreq]
  exact if_pos (requestValid_iff.2 h)

/-- Settles O21: a malformed request faults, and any other is latched by the divisor search's answer. -/
theorem transferOneValidates : Obligations.TransferOneValidates := by
  intro s c l hs hlife hfsm hhwp hreq
  rw [exec_transferOne_of_prepared hs hlife hfsm hhwp]
  by_cases hbad : Malformed s.params c l
  · exact .inl ⟨hbad, transferStart_of_malformed hreq hbad⟩
  · refine .inr ⟨hbad, ?_⟩
    rw [transferStart_of_not_malformed hreq hbad, transferLatch]
    cases calcDivisors s.params.baseRate l.speed.toNat <;> rfl

/-! ### Configuration -/

/-- The low byte of a divisor, zero-extended (R89). -/
theorem setWidth_ofNat_byte (n : Nat) : ((BitVec.ofNat 8 n).setWidth 32 : Word) = BitVec.ofNat 32 (n % 256) := by
  rw [← BitVec.ofNat_toNat, BitVec.toNat_ofNat]

/-- A field above the k bits of a number is added to it. -/
theorem shiftLeft_or_ofNat {w k a b : Nat} (hb : b < 2 ^ k) :
    BitVec.ofNat w a <<< k ||| BitVec.ofNat w b = BitVec.ofNat w (a * 2 ^ k + b) := by
  have hshift : BitVec.ofNat w a <<< k = BitVec.ofNat w (a <<< k) := by
    apply BitVec.eq_of_toNat_eq
    simp [Nat.shiftLeft_eq]
  rw [← Nat.shiftLeft_eq, Nat.shiftLeft_add_eq_or_of_lt hb, BitVec.ofNat_or, hshift]

theorem bit_eq_ofNat (b : Bool) : bit b = BitVec.ofNat 32 b.toNat := by cases b <;> rfl

/-- DSS is bpw - 1, with no borrow for the widths Validate admits (R89). -/
theorem dss_eq_ofNat {bpw : BitVec 5} (hlow : 4 ≤ bpw.toNat) :
    (bpw.setWidth 32 - 1 : Word) = BitVec.ofNat 32 (bpw.toNat - 1) := by
  rw [← BitVec.ofNat_toNat]
  exact BitVec.ofNat_sub_ofNat_of_le _ 1 (by decide) (by omega)

/-- CR0's four fields lie side by side (R89). -/
theorem cr0Word_eq_ofNat {l : Leg} (d : Nat) (hlow : 4 ≤ l.bpw.toNat) (hhigh : l.bpw.toNat ≤ 16) :
    cr0Word l d = BitVec.ofNat 32 (d % 256 * 256 + (if l.cpol then 128 else 0) + (if l.cpha then 64 else 0)
      + (l.bpw.toNat - 1)) := by
  have hdss : l.bpw.toNat - 1 < 2 ^ 6 := by omega
  have hcpha : l.cpha.toNat * 2 ^ 6 + (l.bpw.toNat - 1) < 2 ^ 7 := by have := l.cpha.toNat_lt; omega
  have hcpol : l.cpol.toNat * 2 ^ 7 + (l.cpha.toNat * 2 ^ 6 + (l.bpw.toNat - 1)) < 2 ^ 8 := by
    have := l.cpol.toNat_lt; omega
  rw [cr0Word, setWidth_ofNat_byte, dss_eq_ofNat hlow, bit_eq_ofNat, bit_eq_ofNat, BitVec.or_assoc, BitVec.or_assoc,
    shiftLeft_or_ofNat hdss, shiftLeft_or_ofNat hcpha, shiftLeft_or_ofNat hcpol]
  have hbit (b : Bool) (n : Nat) : (if b then n else 0) = b.toNat * n := by cases b <;> simp
  rw [hbit, hbit, Nat.add_assoc, Nat.add_assoc]
  rfl

/-- CR0's write resets the cursors and takes the leg's path (R87). -/
theorem exec_transferOne_writeCr0 {s : State} {d : Nat} (h : At (.transferOne (.writeCr0 d)) s) :
    exec .transferOne s =
      transferPath { setSsp s { s.ssp with cr0 := cr0Word s.leg d } with rxc := 0, txc := 0 } := exec_of_at h rfl

/-- Settles O22: the two writes, each with its word as a number, and the path by its condition. -/
theorem configurationIsWritten : Obligations.ConfigurationIsWritten := by
  refine fun s => ⟨fun p d hs => ?_, fun d hs hlow hhigh => ?_⟩
  · rw [← setWidth_ofNat_byte]
    exact exec_of_at hs rfl
  · rw [exec_transferOne_writeCr0 hs, ← cr0Word_eq_ofNat d hlow hhigh, transferPath]
    have hpath : (s.dmaAv && decide (fifoDepth < s.leg.len.toNat)) = true ↔ s.dmaAv = true ∧ 8 < s.leg.len.toNat := by
      rw [Bool.and_eq_true, decide_eq_true_eq]; rfl
    by_cases hdma : s.dmaAv = true ∧ 8 < s.leg.len.toNat
    · rw [if_pos hdma]; exact if_pos (hpath.2 hdma)
    · rw [if_neg hdma]; exact if_neg (mt hpath.1 hdma)

end Sys2Proof.Machine
end

section
/-! SUPPORT. The clean PIO leg (R96): CleanLeg cut into its counts, which name no position of PH, and what PH adds; what
a shift, a pop and a push do to the counts; and the step of every agent. -/

namespace Sys2Proof.Machine

/-- What a clean PIO leg says of the queues, FIFOLVL and the cursors, whatever PH is (R96). -/
def CleanCounts (s : State) : Prop :=
  LegOn .pio s ∧ s.ssp.roris = false ∧ s.rx.desc ≠ .issued ∧ s.tx.desc ≠ .issued
    ∧ s.fifoLvl ≤ fifoDepth
    ∧ s.fifoLvl = s.ssp.txq.length + s.ssp.rxq.length
    ∧ s.txc.toNat = s.rxc.toNat + s.fifoLvl * legUnit s.leg
    ∧ s.txc.toNat ≤ s.leg.len.toNat
    ∧ legUnit s.leg ∣ s.leg.len.toNat ∧ legUnit s.leg ∣ s.rxc.toNat

/-- The positions of PH at which a clean leg may stand (R96). -/
def cleanPhase : Phase → Bool
  | .ready | .calcDivisors | .evtIrq .start | .evtDmaRxDone .start
  | .transferOne (.engine _) | .transferOne (.cr1 _) | .evtIrq .readIir | .evtIrq (.engine _) => true
  | _ => false

/-- CleanLeg is the counts, a position of PH where a clean leg may stand, and what a pop and a push find there. -/
theorem cleanLeg_iff {s : State} :
    CleanLeg s ↔ CleanCounts s ∧ cleanPhase s.ph = true ∧ (atPop s.ph = true → s.ssp.rxq ≠ []) ∧
      (atPush s.ph = true → fillMore s = true) := by
  constructor
  · rintro ⟨hleg, hroris, hrx, htx, hdepth, hlvl, htxc, hlen, hdvd, hdvd', hpop, hpush, hph⟩
    refine ⟨⟨hleg, hroris, hrx, htx, hdepth, hlvl, htxc, hlen, hdvd, hdvd'⟩, ?_, hpop, hpush⟩
    split at hph <;> simp_all only [cleanPhase]
  · rintro ⟨⟨hleg, hroris, hrx, htx, hdepth, hlvl, htxc, hlen, hdvd, hdvd'⟩, hph, hpop, hpush⟩
    refine ⟨hleg, hroris, hrx, htx, hdepth, hlvl, htxc, hlen, hdvd, hdvd', hpop, hpush, ?_⟩
    unfold cleanPhase at hph
    split at hph <;> simp_all only [reduceCtorEq]

/-- At no pop and no push the counts are all there is to a clean leg. -/
theorem CleanCounts.cleanLeg {s : State} (h : CleanCounts s) (hph : cleanPhase s.ph = true) (hpop : atPop s.ph = false)
    (hpush : atPush s.ph = false) : CleanLeg s :=
  cleanLeg_iff.2 ⟨h, hph, fun hc => absurd (hpop.symm.trans hc) (by decide),
    fun hc => absurd (hpush.symm.trans hc) (by decide)⟩

theorem cleanPhase_engineAt (i : Instr) (k : EnginePos) : cleanPhase (engineAt i k) = true := by cases i <;> rfl

theorem atPop_engineAt_iff {i : Instr} {k : EnginePos} : atPop (engineAt i k) = true ↔ k = .pop := by
  cases i <;> cases k <;> simp [engineAt, atPop]

theorem atPush_engineAt_push (i : Instr) : atPush (engineAt i .push) = true := by cases i <;> rfl

/-- At a position of the engine the counts need what a pop or a push of that position finds. -/
theorem CleanCounts.cleanLeg_engineAt {i : Instr} {k : EnginePos} {s : State} (h : CleanCounts s)
    (hp : s.ph = engineAt i k) (hpop : k = .pop → s.ssp.rxq ≠ []) (hpush : k = .push → fillMore s = true) :
    CleanLeg s := by
  refine cleanLeg_iff.2 ⟨h, ?_, ?_, ?_⟩ <;> rw [hp]
  · exact cleanPhase_engineAt i k
  · exact fun hc => hpop (atPop_engineAt_iff.1 hc)
  · exact fun hc => hpush (atPush_engineAt hc)

/-! ### The counts -/

/-- A unit in RXQ passes both checks of a pop (R92, R96). -/
theorem CleanCounts.pop_checks {s : State} (h : CleanCounts s) (hq : s.ssp.rxq ≠ []) :
    0 < s.fifoLvl ∧ s.rxc.toNat + legUnit s.leg ≤ s.leg.len.toNat := by
  obtain ⟨-, -, -, -, -, hlvl, htxc, hlen, -⟩ := h
  have hpos : 0 < s.fifoLvl := by have := List.length_pos_iff.2 hq; omega
  have := Nat.le_mul_of_pos_left (legUnit s.leg) hpos
  omega

/-- The guard of the fill loop leaves room in TXQ and a whole unit of the leg (R93, R96). -/
theorem CleanCounts.push_checks {s : State} (h : CleanCounts s) (hf : fillMore s = true) :
    s.fifoLvl < fifoDepth ∧ s.ssp.txq.length < fifoDepth ∧ s.txc.toNat + legUnit s.leg ≤ s.leg.len.toNat := by
  obtain ⟨-, -, -, -, -, hlvl, htxc, hlen, hdvd, hdvd'⟩ := h
  simp only [fillMore, Bool.and_eq_true, decide_eq_true_eq] at hf
  refine ⟨hf.1, by omega, add_unit_le ?_ hdvd hf.2⟩
  exact htxc ▸ hdvd'.add (Nat.dvd_mul_left _ _)

/-- A pop takes its unit out of RXQ, FIFOLVL and the distance of the cursors alike (R92, R96). -/
theorem CleanCounts.pop {s t : State} (h : CleanCounts s) (hp : Sys2Proof.Machine.pop s = .ok t) : CleanCounts t := by
  obtain ⟨hleg, hroris, hrx, htx, hdepth, hlvl, htxc, hlen, hdvd, hdvd'⟩ := h
  obtain ⟨u, q, m, r, hq, hpos, hle, rfl, -⟩ := pop_ok hp
  have hrxc := advance_toNat hle
  refine ⟨hleg, hroris, hrx, htx, ?_, ?_, ?_, hlen, hdvd, ?_⟩
  · exact (Nat.sub_le _ _).trans hdepth
  · simp only [hq, List.length_cons] at hlvl ⊢; omega
  · obtain ⟨n, hn⟩ := Nat.exists_eq_succ_of_ne_zero hpos.ne'
    simp only [hrxc, htxc, hn, Nat.succ_mul, Nat.succ_sub_one]; omega
  · exact hrxc.symm ▸ hdvd'.add (dvd_refl _)

/-- A push adds its unit to TXQ, FIFOLVL and the distance of the cursors alike (R93, R96). -/
theorem CleanCounts.push {s t : State} (h : CleanCounts s) (hf : fillMore s = true)
    (hp : Sys2Proof.Machine.push s = .ok t) : CleanCounts t := by
  obtain ⟨hroom, -, hle⟩ := h.push_checks hf
  obtain ⟨hleg, hroris, hrx, htx, hdepth, hlvl, htxc, hlen, hdvd, hdvd'⟩ := h
  obtain ⟨v, n, -, rfl⟩ := push_ok hp
  have htxc' := advance_toNat hle
  refine ⟨hleg, hroris, hrx, htx, hroom, ?_, ?_, htxc'.trans_le hle, hdvd, hdvd'⟩
  · simp only [List.length_append, List.length_singleton]; omega
  · simp only [htxc', htxc, Nat.succ_mul]; omega

/-- A shift has room in RXQ, so it loses nothing, and moves its unit between the queues (R123, R96). -/
theorem CleanCounts.shift {s : State} (h : CleanCounts s) (v : FifoUnit) :
    CleanCounts (setSsp s (sspShift v s.ssp)) ∧ (s.ssp.rxq ≠ [] → (sspShift v s.ssp).rxq ≠ []) := by
  have hcounts := h
  obtain ⟨hleg, hroris, hrx, htx, hdepth, hlvl, hcursors⟩ := h
  rcases sspShift_cases v s.ssp with he | ⟨u, q, hq, -, ⟨-, he⟩ | ⟨hfull, -⟩⟩
  · rw [he]; exact ⟨hcounts, id⟩
  · rw [he]
    refine ⟨⟨hleg, hroris, hrx, htx, hdepth, ?_, hcursors⟩, fun _ => by simp⟩
    simp only [hq, List.length_cons, setSsp_fifoLvl, setSsp_ssp, List.length_append, List.length_nil] at hlvl ⊢
    omega
  · simp only [hq, List.length_cons] at hlvl; omega

/-- Once RXC has reached the length, the counts leave nothing behind (R96(d)). -/
theorem CleanCounts.complete {s : State} (h : CleanCounts s) (hc : s.rxc = s.leg.len) (p : Phase) :
    LegComplete { s with fsm := .done, ph := p } := by
  obtain ⟨-, -, -, -, -, hlvl, htxc, hlen, -⟩ := h
  rw [hc] at htxc
  have hunit : 0 < legUnit s.leg := by rcases legUnit_cases s.leg with hu | hu <;> omega
  have hzero : s.fifoLvl = 0 := by
    by_contra hne
    have := Nat.le_mul_of_pos_left (legUnit s.leg) (Nat.pos_of_ne_zero hne)
    omega
  rw [hzero] at htxc
  have htxq : s.ssp.txq = [] := List.eq_nil_of_length_eq_zero (by omega)
  have hrxq : s.ssp.rxq = [] := List.eq_nil_of_length_eq_zero (by omega)
  exact ⟨rfl, hc, BitVec.eq_of_toNat_eq (by simpa using htxc), hzero, htxq, hrxq⟩

/-! ### Steps -/

/-- What one step may leave of a clean leg: it is clean still or complete, and no FIFO fault has joined (R96). -/
def CleanNext (s t : State) : Prop :=
  (CleanLeg t ∨ LegComplete t) ∧ ∀ r : Reason, fifoFault r = true → r ∈ t.faults → r ∈ s.faults

theorem CleanLeg.next {s t : State} (h : CleanLeg t) (hf : t.faults = s.faults) : CleanNext s t :=
  ⟨.inl h, fun _ _ hr => hf ▸ hr⟩

/-- A fault that is none of the FIFO's keeps the leg clean. -/
theorem CleanLeg.raised {s : State} {r : Reason} (h : CleanLeg s) (hr : fifoFault r = false) :
    CleanNext s (raised r s) := by
  refine ⟨.inl h, fun r' hr' hmem => ?_⟩
  rcases (mem_addReason r r' _).1 hmem with rfl | hmem
  · exact absurd (hr.symm.trans hr') (by decide)
  · exact hmem

/-- The fill loop's test keeps the leg clean, or finds it complete (R90, R96(d)). -/
theorem CleanCounts.engineFilled {i : Instr} {s : State} (hi : runsEngine i = true) (h : CleanCounts s) :
    CleanNext s (engineFilled i s) := by
  rcases engineFilled_cases hi s with ⟨hf, he⟩ | ⟨-, he⟩ | ⟨-, hc, he⟩ | ⟨-, he⟩ <;> rw [he]
  · exact CleanLeg.next (CleanCounts.cleanLeg_engineAt (s := moveTo _ s) h rfl nofun fun _ => hf) rfl
  · exact CleanLeg.next (CleanCounts.cleanLeg h rfl rfl rfl) rfl
  · exact ⟨.inr (h.complete hc _), fun _ _ hr => hr⟩
  · exact CleanLeg.next (CleanCounts.cleanLeg h rfl rfl rfl) rfl

theorem NoLeg.not_legOn_pio {s : State} (h : NoLeg s) : ¬ LegOn .pio s := fun hl => h.not_pio hl.2

/-- Every step of an instruction keeps a clean leg clean or completes it, with no FIFO fault (R96). -/
theorem CleanLeg.block {i : Instr} {s t : State} (hm : ModeInv s) (hc : CleanLeg s) (h : BlockStep i s t) :
    CleanNext s t := by
  obtain ⟨hcounts, hph, hpop, hpush⟩ := cleanLeg_iff.1 hc
  have hleg := hcounts.1
  cases h with
  | badState => exact hc.raised rfl
  | attachStart _ hd => exact absurd hleg (hm.1 hd).not_legOn_pio
  | detachStart hp hr => exact absurd hleg (hm.noLeg_of_detach hp hr).not_legOn_pio
  | prepareHwStart hp hr | unprepareHwStart hp hr | prepareMsgStart hp hr =>
    exact absurd hleg (hm.noLeg_of_required hp (by simp) hr).1.not_legOn_pio
  | transferUnwritten hp | transferMalformed hp | transferNoRate hp | transferLatch hp =>
    exact absurd hleg (hm.transferStart hp).1.not_legOn_pio
  | attachFirst hp | attachRx hp | attachTx hp | attachReleased hp | detachStep hp | prepareHwRead hp
  | prepareHwWrite hp | unprepareHwRead hp | unprepareHwWrite hp | flushEmpty hp | flushTimeout hp | flushMore hp | flushDiscard hp
  | flushUnderflow hp | transferCpsr hp | transferCr0 hp | transferDma hp | irqIcr hp | irqCr1Read hp | irqCr1Write hp
  | dmaDoneUnmapRx hp | dmaDoneUnmapTx hp => rw [hp] at hph; cases hph
  | calcUnwritten =>
    exact CleanLeg.raised (CleanCounts.cleanLeg (s := { s with ph := .calcDivisors }) hcounts rfl rfl rfl) rfl
  | calcOk | calcFail | transferCr1Read | transferCr1Write | irqStart | irqEngine =>
    exact CleanLeg.next (CleanCounts.cleanLeg hcounts rfl rfl rfl) rfl
  | irqSpurious _ hn => exact absurd hleg hn
  | irqOverrun _ hr => exact absurd (hcounts.2.1.symm.trans hr) (by decide)
  | dmaDoneStart _ _ hd | dmaDoneEarly _ _ hd => exact absurd (hleg.2.symm.trans hd) (by decide)
  | dmaDoneSpurious =>
    exact CleanLeg.raised (CleanCounts.cleanLeg (s := { s with ph := .evtDmaRxDone .start }) hcounts rfl rfl rfl) rfl
  | engineDrain hi hp hq =>
    exact CleanLeg.next (CleanCounts.cleanLeg_engineAt (s := moveTo _ s) hcounts rfl (fun _ => hq) nofun) rfl
  | engineFill hi => exact hcounts.engineFilled hi
  | enginePop hi hp hq =>
    have hcounts' := hcounts.pop hq
    obtain ⟨u, q, m, r, -, -, -, rfl, -⟩ := pop_ok hq
    exact CleanLeg.next (CleanCounts.cleanLeg_engineAt (s := moveTo _ _) hcounts' rfl nofun nofun) rfl
  | enginePopFault hi hp hr =>
    have hq := hpop (by rw [hp]; exact atPop_engineAt_iff.2 rfl)
    obtain ⟨hpos, hle⟩ := hcounts.pop_checks hq
    rcases hr with ⟨-, h⟩ | ⟨-, h⟩ | ⟨-, h⟩
    · omega
    · omega
    · exact absurd h hq
  | enginePush hi hp hq =>
    have hf := hpush (by rw [hp]; exact atPush_engineAt_push i)
    have hnext := (hcounts.push hf hq).engineFilled hi
    obtain ⟨v, n, -, rfl⟩ := push_ok hq
    exact hnext
  | enginePushFault hi hp hfull =>
    have hf := hpush (by rw [hp]; exact atPush_engineAt_push i)
    have := (hcounts.push_checks hf).2.1
    omega

/-- Every action of every agent keeps a clean leg clean or completes it, with no FIFO fault (R96). -/
theorem CleanLeg.agent {a : Action} {s t : State} (hm : ModeInv s) (hc : CleanLeg s) (h : AgentStep a s t) :
    CleanNext s t := by
  obtain ⟨hcounts, hph, hpop, hpush⟩ := cleanLeg_iff.1 hc
  have ⟨_, _, hrx, htx, _⟩ := hcounts
  cases h with
  | @block b _ _ _ _ _ hb => exact CleanLeg.block (s := { s with answer := b }) hm hc hb
  | event _ _ _ hb | command _ _ _ hb => exact hc.block hm hb
  | illegalCommand | illegalAccess => exact hc.raised rfl
  | idle | blockIdle | argWrite | hostRead | hostMemWrite => exact CleanLeg.next hc rfl
  | @shift v =>
    obtain ⟨hcounts', hrxq⟩ := hcounts.shift v
    exact CleanLeg.next (cleanLeg_iff.2 ⟨hcounts', hph, fun hp => hrxq (hpop hp), hpush⟩) rfl
  | dmaTx =>
    rcases dmaTxStep_cases s with h | ⟨hd, -⟩
    · rw [h]; exact hc.next rfl
    · exact absurd hd htx
  | dmaRx =>
    rcases dmaRxStep_cases s with h | ⟨hd, -⟩
    · rw [h]; exact hc.next rfl
    · exact absurd hd hrx
  | clock =>
    rcases clockStep_cases s with h | ⟨-, h⟩ <;> rw [h] <;> exact CleanLeg.next hc rfl

/-- Settles O56: the step agent by agent, and the counts of a leg just armed. -/
theorem cleanLegStaysTruthful : Obligations.CleanLegStaysTruthful := by
  refine ⟨fun s t hm hc h => ?_, fun s t d hm hs hgeom hlvl htxq hrxq hroris hrx htx h hmode => ?_⟩
  · obtain ⟨l, n, ha⟩ := step_next h
    exact CleanLeg.agent (s := { s with agenda := l, tick := n }) hm hc ha
  · rw [exec_transferOne_writeCr0 hs, transferPath] at h
    split at h <;> cases h
    · exact absurd hmode (hm.transfer hs.2 (by simp)).1.not_pio
    · refine CleanCounts.cleanLeg_engineAt (i := .transferOne) (k := .sr) ?_ rfl nofun nofun
      refine ⟨⟨rfl, rfl⟩, hroris, hrx, htx, ?_, ?_, ?_, Nat.zero_le _, hgeom.2.2, dvd_zero _⟩
      · exact hlvl.trans_le (Nat.zero_le _)
      · simp [hlvl, htxq, hrxq]
      · simp [hlvl]

end Sys2Proof.Machine
end

section
/-! SUPPORT. Progress of a clean PIO leg (R98): a unit in TXQ can shift, and an empty TXQ asserts the interrupt line. -/

namespace Sys2Proof.Machine

/-- On a clean leg, prepared as its modes say, a unit at the head of TXQ is exchanged for one at the tail of RXQ (R123,
R98). -/
theorem CleanCounts.shift_enabled {s : State} (h : CleanCounts s) (hc : Cr1Inv s) {u : FifoUnit} {q : List FifoUnit}
    (hq : s.ssp.txq = u :: q) (v : FifoUnit) :
    (sspShift v s.ssp).txq = q ∧ (sspShift v s.ssp).rxq.length = s.ssp.rxq.length + 1 := by
  obtain ⟨hleg, -, -, -, hdepth, hlvl, -⟩ := h
  obtain ⟨-, -, hsse, hprepared, -⟩ := hc
  have hsse : s.ssp.cr1.getLsbD 4 = true := (hsse (hprepared (.inl (by rw [hleg.1]; decide)))).2.2
  have hroom : s.ssp.rxq.length < fifoDepth := by simp only [hq, List.length_cons] at hlvl; omega
  rw [sspShift, hq]
  simp only [hsse, hroom, if_true, List.length_append, List.length_singleton, and_self]

/-- With its enables set an empty TXQ asserts the interrupt line (R118). -/
theorem irqLine_of_txq_nil {q : Params} {p : Ssp} (hen : p.cr1 &&& irqEnMask = irqEnMask) (hq : p.txq = []) :
    irqLine q p = true := by
  have htie : p.cr1.getLsbD 1 = true := by
    have := congrArg (BitVec.getLsbD · 1) hen
    simpa [irqEnMask] using this
  simp [irqLine, tis, hq, htie]

/-- With both queues empty the cursors have met, and below the length there is room and a byte to push (R96, R98). -/
theorem CleanCounts.push_of_queues_nil {s : State} (h : CleanCounts s) (htxq : s.ssp.txq = []) (hrxq : s.ssp.rxq = [])
    (hlt : s.rxc.toNat < s.leg.len.toNat) : fillMore s = true ∧ s.txc = s.rxc := by
  obtain ⟨-, -, -, -, -, hlvl, htxc, -⟩ := h
  have hzero : s.fifoLvl = 0 := by simpa [htxq, hrxq] using hlvl
  have hmeet : s.txc = s.rxc := BitVec.eq_of_toNat_eq (by simpa [hzero] using htxc)
  exact ⟨by simp [fillMore, hzero, hmeet, hlt, fifoDepth], hmeet⟩

/-- Settles O59: TXQ has a unit to shift, or its being empty raises the interrupt, which finds work. -/
theorem cleanLegMakesProgress : Obligations.CleanLegMakesProgress := by
  intro s hm hc hclean hp hlt
  have hcounts := (cleanLeg_iff.1 hclean).1
  have hleg := hcounts.1
  cases htxq : s.ssp.txq with
  | cons u q => exact .inl ⟨u, q, rfl, hcounts.shift_enabled hc htxq⟩
  | nil =>
    refine .inr ⟨rfl, ?_, ?_⟩
    · have hlife : s.life = .attached := by
        cases hl : s.life with
        | attached => rfl
        | detached => exact absurd hl (hm.life_ne_detached (by rw [hleg.1]; decide))
      have hline := irqLine_of_txq_nil (q := s.params) (hc.2.1 (by rw [hp]; rfl) hleg.2) htxq
      simp [eventEnabled, hlife, hline]
    · by_cases hrxq : s.ssp.rxq = []
      · exact .inr (hcounts.push_of_queues_nil htxq hrxq hlt)
      · exact .inl hrxq

end Sys2Proof.Machine
end

section
/-! SUPPORT. Reads and writes of a unit by BLOCK (R14, R47, R48): refused with one of its bytes, else byte by byte, the
low byte before the high one. -/

namespace Sys2Proof.Machine

/-- The units of a list lie one after the other in memory from address a on, each little-endian in n bytes (R48). -/
def HoldsUnits (m : List Host.Cell) (a n : Nat) (us : List FifoUnit) : Prop :=
  ∀ (k : Nat) (u : FifoUnit), us[k]? = some u →
    Memory.read m (a + k * n) = u.extractLsb' 0 8 ∧ (n = 2 → Memory.read m (a + k * n + 1) = u.extractLsb' 8 8)

theorem holdsUnits_nil (m : List Host.Cell) (a n : Nat) : HoldsUnits m a n [] := fun k u h => by cases h

theorem holdsUnits_singleton {m : List Host.Cell} {a n : Nat} {u : FifoUnit} :
    HoldsUnits m a n [u] ↔
      Memory.read m a = u.extractLsb' 0 8 ∧ (n = 2 → Memory.read m (a + 1) = u.extractLsb' 8 8) := by
  constructor
  · intro h
    simpa using h 0 u rfl
  · rintro h (_ | k) v hv
    · cases hv; simpa using h
    · cases hv

theorem HoldsUnits.cons {m : List Host.Cell} {a n : Nat} {u : FifoUnit} {us : List FifoUnit} (h : HoldsUnits m a n [u])
    (hs : HoldsUnits m (a + n) n us) : HoldsUnits m a n (u :: us) := by
  rintro (_ | k) v hv
  · exact h 0 v hv
  · have haddr : a + (k + 1) * n = a + n + k * n := by rw [Nat.succ_mul]; omega
    rw [haddr]
    exact hs k v hv

/-- Memory m' is m with the units of a list stored from address a on, and no other byte changed. -/
def StoresUnits (m m' : List Host.Cell) (a n : Nat) (us : List FifoUnit) : Prop :=
  HoldsUnits m' a n us ∧ ∀ b, (b < a ∨ a + us.length * n ≤ b) → Memory.read m' b = Memory.read m b

theorem storesUnits_nil (m : List Host.Cell) (a n : Nat) : StoresUnits m m a n [] :=
  ⟨holdsUnits_nil m a n, fun _ _ => rfl⟩

/-- Where a list is stored after a unit, the unit is still there. -/
theorem StoresUnits.cons {m m₁ m₂ : List Host.Cell} {a n : Nat} {u : FifoUnit} {us : List FifoUnit} (hn : n = 1 ∨ n = 2)
    (h : StoresUnits m m₁ a n [u]) (hs : StoresUnits m₁ m₂ (a + n) n us) : StoresUnits m m₂ a n (u :: us) := by
  obtain ⟨hunit, hkept⟩ := h
  obtain ⟨hunits, hkept'⟩ := hs
  refine ⟨HoldsUnits.cons ?_ hunits, fun b hb => ?_⟩
  · rw [holdsUnits_singleton] at hunit ⊢
    refine ⟨(hkept' a (by omega)).trans hunit.1, fun h2 => (hkept' (a + 1) (by omega)).trans (hunit.2 h2)⟩
  · rw [List.length_cons, Nat.succ_mul] at hb
    rw [hkept' b (by omega), hkept b (by rw [List.length_singleton]; omega)]

/-! ### Reads -/

theorem readByte_refused {s : State} {a : Nat} (h : admitted s a = false) : readByte s a = none := by
  simp [readByte, h]

theorem readByte_admitted {s : State} {a : Nat} (h : admitted s a = true) :
    ∃ v k, readByte s a = some (v, { s with draws := k }) ∧
      (a ∉ s.raced → v = Memory.read s.mem a ∧ k = s.draws) := by
  by_cases hr : a ∈ s.raced
  · exact ⟨_, _, readByte_raced h hr, fun hn => absurd hr hn⟩
  · exact ⟨_, s.draws, by simp [readByte, h, hr], fun _ => ⟨rfl, rfl⟩⟩

/-- The low byte of a byte extended to a unit is the byte. -/
theorem extractLsb'_setWidth_byte (v : Byte) : (v.setWidth 16 : FifoUnit).extractLsb' 0 8 = v := by
  ext i hi
  simp only [BitVec.getElem_extractLsb', BitVec.getLsbD_setWidth, Nat.zero_add, BitVec.getLsbD_eq_getElem hi]
  simp [show i < 16 by omega]

/-- A unit every byte of which is admitted is read; a byte that is not raced is memory's (R47, R48, R56). -/
theorem memRead_admitted {s : State} {a n : Nat} (hn : n = 1 ∨ n = 2) (h : ∀ k < n, admitted s (a + k) = true) :
    ∃ v k, memRead s a n = some (v, { s with draws := k }) ∧
      (a ∉ s.raced → v.extractLsb' 0 8 = Memory.read s.mem a) ∧
      (n = 2 → a + 1 ∉ s.raced → v.extractLsb' 8 8 = Memory.read s.mem (a + 1)) ∧
      (n = 1 → v.extractLsb' 8 8 = 0) ∧
      ((∀ j < n, a + j ∉ s.raced) → k = s.draws) := by
  obtain ⟨lo, k, hlo, hread⟩ := readByte_admitted (s := s) (a := a) (h 0 (by omega))
  rcases hn with rfl | rfl
  · refine ⟨lo.setWidth 16, k, by simp [memRead, hlo], fun hr => ?_, nofun, fun _ => by ext; simp, fun hr => ?_⟩
    · exact (extractLsb'_setWidth_byte lo).trans (hread hr).1
    · exact (hread (hr 0 (by omega))).2
  · obtain ⟨hi, k', hhi, hread'⟩ := readByte_admitted (s := { s with draws := k }) (a := a + 1) (h 1 (by omega))
    refine ⟨hi ++ lo, k', by simp [memRead, hlo, hhi], fun hr => ?_, fun _ hr => ?_, nofun, fun hr => ?_⟩
    · exact BitVec.extractLsb'_append_eq_right.trans (hread hr).1
    · exact BitVec.extractLsb'_append_eq_left.trans (hread' hr).1
    · exact ((hread' (hr 1 (by omega))).2).trans (hread (hr 0 (by omega))).2

/-- Of the bytes of a unit whose first one is admitted, only the second can be refused. -/
theorem refused_of_first_admitted {s : State} {a n : Nat} (hn : n = 1 ∨ n = 2) (h : ∃ k < n, admitted s (a + k) = false)
    (h0 : admitted s a = true) : n = 2 ∧ admitted s (a + 1) = false := by
  obtain ⟨k, hk, hadm⟩ := h
  have hne : k ≠ 0 := by rintro rfl; exact absurd (h0.symm.trans hadm) (by decide)
  obtain ⟨rfl, rfl⟩ : n = 2 ∧ k = 1 := by omega
  exact ⟨rfl, hadm⟩

/-- A unit with a byte that is not admitted is not read (R47). -/
theorem memRead_refused {s : State} {a n : Nat} (hn : n = 1 ∨ n = 2) (h : ∃ k < n, admitted s (a + k) = false) :
    memRead s a n = none := by
  by_cases h0 : admitted s a = true
  · obtain ⟨lo, d, hlo, -⟩ := readByte_admitted h0
    obtain ⟨rfl, h1⟩ := refused_of_first_admitted hn h h0
    have hhi : readByte { s with draws := d } (a + 1) = none := readByte_refused h1
    simp [memRead, hlo, hhi]
  · simp [memRead, readByte_refused (Bool.eq_false_iff.2 h0)]

/-! ### Writes -/

/-- The state a byte stored by BLOCK leaves (writeByte_admitted). -/
def byteStored (s : State) (a : Nat) (v : Byte) : State :=
  { s with mem := Memory.write s.mem a v, unsettled := addrErase a s.unsettled }

theorem writeByte_admitted {s : State} {a : Nat} (h : admitted s a = true) (v : Byte) :
    writeByte s a v = some (byteStored s a v) := by
  simp [writeByte, byteStored, h]

theorem writeByte_refused {s : State} {a : Nat} (h : admitted s a = false) (v : Byte) : writeByte s a v = none := by
  simp [writeByte, h]

/-- A unit with a byte that is not admitted is not stored (R47). -/
theorem memWrite_refused {s : State} {a n : Nat} (hn : n = 1 ∨ n = 2) (h : ∃ k < n, admitted s (a + k) = false)
    (v : FifoUnit) : memWrite s a n v = none := by
  by_cases h0 : admitted s a = true
  · obtain ⟨rfl, h1⟩ := refused_of_first_admitted hn h h0
    rw [memWrite, writeByte_admitted h0]
    exact writeByte_refused (s := byteStored s a (v.setWidth 8)) h1 _
  · rw [memWrite, writeByte_refused (Bool.eq_false_iff.2 h0)]

/-- A unit every byte of which is admitted is stored little-endian, and no byte becomes a draw (R47, R48). -/
theorem memWrite_admitted {s : State} {a n : Nat} (hn : n = 1 ∨ n = 2) (h : ∀ k < n, admitted s (a + k) = true)
    (v : FifoUnit) (hi : MemInv s) :
    ∃ m r, memWrite s a n v = some { s with mem := m, unsettled := r } ∧ MemInv { s with mem := m, unsettled := r } ∧
      (∀ b ∈ r, b ∈ s.unsettled) ∧ StoresUnits s.mem m a n [v] := by
  have hwf := hi.1
  have hlo : writeByte s a (v.setWidth 8) = _ := writeByte_admitted (h 0 (by omega)) _
  obtain ⟨m, r, hw, hunit⟩ : ∃ m r, memWrite s a n v = some { s with mem := m, unsettled := r } ∧
      HoldsUnits m a n [v] := by
    rcases hn with rfl | rfl
    · exact ⟨_, _, by rw [memWrite, hlo]; rfl, holdsUnits_singleton.2 ⟨read_write_same _ _ hwf, nofun⟩⟩
    · have hhi := writeByte_admitted (s := byteStored s a (v.setWidth 8)) (h 1 (by omega)) ((v >>> 8).setWidth 8)
      have hwf' := wf_write a (v.setWidth 8) hwf
      refine ⟨_, _, by rw [memWrite, hlo]; exact hhi, holdsUnits_singleton.2 ⟨?_, fun _ => read_write_same _ _ hwf'⟩⟩
      exact (read_write_other (by omega) _ hwf').trans (read_write_same _ _ hwf)
  obtain ⟨m', r', heq, hkeep, hsub, hout⟩ := memWrite_some hw
  cases heq
  refine ⟨m, r, hw, hkeep hi, hsub, hunit, fun b hb => hout hwf b ?_⟩
  rw [List.length_singleton, Nat.one_mul] at hb
  rcases hn with rfl | rfl <;> exact hb

end Sys2Proof.Machine
end

section
/-! SUPPORT. The FIFO engine position by position (R90 to R95): what a pop and a push answer, case by case, and what
each position does in the two instructions that run it. -/

namespace Sys2Proof.Machine

/-- A cursor moved by one unit, as a number (R94). -/
theorem advance_eq_ofNat (c : Word) (l : Leg) : advance c l = BitVec.ofNat 32 (c.toNat + legUnit l) := by
  rw [BitVec.ofNat_add, BitVec.ofNat_toNat, BitVec.setWidth_eq, advance]

/-! ### Pop -/

/-- What a pop leaves: RXQ's tail, and memory m with the unsettled addresses r (R92). -/
def popped (s : State) (q : List FifoUnit) (m : List Host.Cell) (r : List Nat) : State :=
  { s with
    ssp := { s.ssp with rxq := q }, rxc := advance s.rxc s.leg, fifoLvl := s.fifoLvl - 1, mem := m, unsettled := r }

/-- A pop may read DR: the counter is not 0 and the unit fits in the leg (R92). -/
def PopReady (s : State) : Prop := 0 < s.fifoLvl ∧ s.rxc.toNat + legUnit s.leg ≤ s.leg.len.toNat

theorem pop_of_lvl_zero {s : State} (h : s.fifoLvl = 0) : pop s = .error (raiseFault .shadowUnderflow s) := if_pos h

theorem pop_of_cursor_past {s : State} (h : 0 < s.fifoLvl) (hlen : s.leg.len.toNat < s.rxc.toNat + legUnit s.leg) :
    pop s = .error (raiseFault .rxCursorOverflow s) := by
  rw [pop, if_neg h.ne', if_pos hlen]

theorem pop_of_rxq_nil {s : State} (h : PopReady s) (hq : s.ssp.rxq = []) :
    pop s = .error (raiseFault .rxFifoUnderflow s) := by
  rw [pop, if_neg h.1.ne', if_neg h.2.not_gt, ioRead32_dr_of_nil hq]

theorem pop_discards {s : State} {u : FifoUnit} {q : List FifoUnit} (h : PopReady s) (hq : s.ssp.rxq = u :: q)
    (hrxp : s.leg.rxp = false) : pop s = .ok (popped s q s.mem s.unsettled) := by
  rw [pop, if_neg h.1.ne', if_neg h.2.not_gt, ioRead32_dr_of_cons hq]
  simp [hrxp, popped, setSsp]

theorem pop_stores {s : State} {u : FifoUnit} {q : List FifoUnit} {m : List Host.Cell} {r : List Nat} (h : PopReady s)
    (hq : s.ssp.rxq = u :: q) (hrxp : s.leg.rxp = true)
    (hw : memWrite (setSsp s { s.ssp with rxq := q }) (s.leg.rx.toNat + s.rxc.toNat) (legUnit s.leg) u =
      some { setSsp s { s.ssp with rxq := q } with mem := m, unsettled := r }) : pop s = .ok (popped s q m r) := by
  rw [pop, if_neg h.1.ne', if_neg h.2.not_gt, ioRead32_dr_of_cons hq]
  simp [hrxp, hw, popped]

theorem pop_refused {s : State} (h : PopReady s) (hne : s.ssp.rxq ≠ []) (hrxp : s.leg.rxp = true)
    (hadm : ∃ k < legUnit s.leg, admitted s (s.leg.rx.toNat + s.rxc.toNat + k) = false) :
    pop s = .error (.fault .bufferRefused) := by
  obtain ⟨u, q, hq⟩ := List.exists_cons_of_ne_nil hne
  have hw := memWrite_refused (s := setSsp s { s.ssp with rxq := q }) (legUnit_cases s.leg) hadm u
  rw [pop, if_neg h.1.ne', if_neg h.2.not_gt, ioRead32_dr_of_cons hq]
  simp [hrxp, hw]

/-- A pop into an admitted receive buffer stores its unit at the receive cursor and no other byte (R92, R48). -/
theorem pop_admitted {s : State} {u : FifoUnit} {q : List FifoUnit} (h : PopReady s) (hq : s.ssp.rxq = u :: q)
    (hrxp : s.leg.rxp = true) (hi : MemInv s)
    (hadm : ∀ k < legUnit s.leg, admitted s (s.leg.rx.toNat + s.rxc.toNat + k) = true) :
    ∃ m r, pop s = .ok (popped s q m r) ∧ MemInv (popped s q m r) ∧ (∀ b ∈ r, b ∈ s.unsettled) ∧
      StoresUnits s.mem m (s.leg.rx.toNat + s.rxc.toNat) (legUnit s.leg) [u] := by
  obtain ⟨m, r, hw, hkeep, hsub, hunit⟩ :=
    memWrite_admitted (s := setSsp s { s.ssp with rxq := q }) (legUnit_cases s.leg) hadm u hi
  exact ⟨m, r, pop_stores h hq hrxp hw, hkeep, hsub, hunit⟩

/-! ### Push -/

/-- What a push of unit v leaves (R93). -/
def pushed (s : State) (v : FifoUnit) (n : Nat) : State :=
  { s with
    ssp := { s.ssp with txq := s.ssp.txq ++ [v] }, txc := advance s.txc s.leg, fifoLvl := s.fifoLvl + 1, draws := n }

/-- The unit a push sends is v, read with the draw counter left at n: the transmit buffer's or a zero unit (R93). -/
def PushReads (s : State) (v : FifoUnit) (n : Nat) : Prop :=
  (if s.leg.txp then memRead s (s.leg.tx.toNat + s.txc.toNat) (legUnit s.leg) else some (0, s)) =
    some (v, { s with draws := n })

theorem pushReads_zero {s : State} (h : s.leg.txp = false) : PushReads s 0 s.draws := if_neg (by simp [h])

theorem push_of_room {s : State} {v : FifoUnit} {n : Nat} (h : PushReads s v n) (hroom : s.ssp.txq.length < fifoDepth) :
    push s = .ok (pushed s v n) := by
  unfold PushReads at h
  rcases ioWrite32_dr (v.setWidth 32) { s with draws := n } with ⟨hfull, -⟩ | ⟨-, hd⟩
  · exact absurd hfull hroom.not_ge
  · have hv : (v.setWidth 32).setWidth 16 = v := by simp
    rw [push, h]
    simp only [hd, hv]
    rfl

theorem push_of_full {s : State} {v : FifoUnit} {n : Nat} (h : PushReads s v n) (hfull : fifoDepth ≤ s.ssp.txq.length) :
    push s = .error (raiseFault .txFifoOverflow { s with draws := n }) := by
  unfold PushReads at h
  rcases ioWrite32_dr (v.setWidth 32) { s with draws := n } with ⟨-, hd⟩ | ⟨hroom, -⟩
  · rw [push, h]
    simp only [hd]
  · exact absurd hfull hroom.not_ge

theorem push_refused {s : State} (htxp : s.leg.txp = true)
    (h : ∃ k < legUnit s.leg, admitted s (s.leg.tx.toNat + s.txc.toNat + k) = false) :
    push s = .error (.fault .bufferRefused) := by
  rw [push, if_pos htxp, memRead_refused (legUnit_cases s.leg) h]

/-- An admitted transmit buffer, or none, gives a push its unit (R93). -/
theorem exists_pushReads {s : State}
    (h : s.leg.txp = true → ∀ k < legUnit s.leg, admitted s (s.leg.tx.toNat + s.txc.toNat + k) = true) :
    ∃ v n, PushReads s v n := by
  cases htxp : s.leg.txp with
  | false => exact ⟨0, _, pushReads_zero htxp⟩
  | true =>
    obtain ⟨v, n, hread, -⟩ := memRead_admitted (legUnit_cases s.leg) (h htxp)
    exact ⟨v, n, (if_pos htxp).trans hread⟩

/-! ### The positions of the engine -/

/-- The computation of the fill is engineFilled's in both instructions (R90, R95, R108). -/
theorem engineFill_transferOne (s : State) :
    engineFill (fun k => .transferOne (.engine k)) primeDone s = .next (engineFilled .transferOne s) := by
  rw [engineFill, engineFilled]
  split <;> rfl

theorem engineFill_evtIrq (s : State) :
    engineFill (fun k => .evtIrq (.engine k)) irqEngineDone s = .next (engineFilled .evtIrq s) := by
  rw [engineFill, engineFilled]
  split
  · rfl
  · by_cases hc : s.rxc = s.leg.len <;> simp [irqEngineDone, finish, engineEnd, hc, moveTo]

theorem exec_engine_sr {i : Instr} {s : State} (hi : runsEngine i = true) (hs : At (engineAt i .sr) s) :
    exec i s = if rne s.ssp then .next (moveTo (engineAt i .pop) s) else .next (engineFilled i s) := by
  rcases runsEngine_cases hi with rfl | rfl <;> rw [exec_of_at hs rfl, ← srValue_rne]
  · rw [← engineFill_transferOne]; rfl
  · rw [← engineFill_evtIrq]; rfl

theorem exec_engine_drain {i : Instr} {s : State} (hi : runsEngine i = true) (hs : At (engineAt i .sr) s)
    (hq : s.ssp.rxq ≠ []) : exec i s = .next (moveTo (engineAt i .pop) s) :=
  (exec_engine_sr hi hs).trans (if_pos (rne_iff.2 hq))

theorem exec_engine_fill {i : Instr} {s : State} (hi : runsEngine i = true) (hs : At (engineAt i .sr) s)
    (hq : s.ssp.rxq = []) : exec i s = .next (engineFilled i s) :=
  (exec_engine_sr hi hs).trans (if_neg fun hrne => rne_iff.1 hrne hq)

theorem exec_engine_pop {i : Instr} {s : State} (hi : runsEngine i = true) (hs : At (engineAt i .pop) s) :
    exec i s = bindOut (pop s) (goto (engineAt i .sr)) := by
  rcases runsEngine_cases hi with rfl | rfl <;> exact exec_of_at hs rfl

theorem exec_engine_push {i : Instr} {s : State} (hi : runsEngine i = true) (hs : At (engineAt i .push) s) :
    exec i s = bindOut (push s) fun u => .next (engineFilled i u) := by
  rcases runsEngine_cases hi with rfl | rfl <;> rw [exec_of_at hs rfl]
  · rw [← funext engineFill_transferOne]; rfl
  · rw [← funext engineFill_evtIrq]; rfl

/-- The fill goes on while there is headroom by the counter and a byte to send (R90). -/
theorem fillMore_iff {s : State} : fillMore s = true ↔ s.fifoLvl < 8 ∧ s.txc.toNat < s.leg.len.toNat := by
  rw [fillMore, Bool.and_eq_true, decide_eq_true_eq, decide_eq_true_eq]; rfl

theorem engineFilled_of_more {i : Instr} {s : State} (h : fillMore s = true) :
    engineFilled i s = moveTo (engineAt i .push) s := if_pos h

theorem engineFilled_of_done {i : Instr} {s : State} (h : ¬ fillMore s = true) :
    engineFilled i s = engineEnd i s := if_neg h

/-! ### Statements -/

/-- Settles O23: the two positions of the CR1 read-modify-write. -/
theorem pioArmReturnsWait : Obligations.PioArmReturnsWait :=
  fun _ => ⟨fun hs => exec_of_at hs rfl, fun _ hs => exec_of_at hs rfl⟩

/-- Settles O24: each position's step, and the fill's test both ways. -/
theorem engineDrainsBeforeFilling : Obligations.EngineDrainsBeforeFilling := by
  refine fun i s t hi => ⟨exec_engine_drain hi, exec_engine_fill hi, fun hs h hf => ?_, fun hs h hf => ?_,
    fun hmore => ?_, fun hdone => ?_⟩
  · rw [exec_engine_pop hi hs] at h
    cases hq : pop s with
    | ok u => rw [hq] at h; cases h; rfl
    | error o =>
      rw [hq] at h; subst h
      rcases pop_error hq with ⟨-, he⟩ | ⟨-, he⟩ | ⟨-, he⟩ | he <;> cases he <;> exact absurd hf (addReason_ne_nil _ _)
  · rw [exec_engine_push hi hs] at h
    cases hq : push s with
    | ok u =>
      rw [hq] at h; cases h
      obtain ⟨v, n, -, rfl⟩ := push_ok hq
      exact ⟨pushed s v n, rfl, rfl, rfl, rfl⟩
    | error o =>
      rw [hq] at h; subst h
      rcases push_error hq with ⟨-, n, he⟩ | he <;> cases he
      exact absurd hf (addReason_ne_nil _ _)
  · exact engineFilled_of_more (fillMore_iff.2 hmore)
  · have hend (j : Instr) : engineFilled j s = engineEnd j s := engineFilled_of_done (mt fillMore_iff.1 hdone)
    refine ⟨hend _, fun hc => (hend _).trans (if_pos hc), fun hc => (hend _).trans (if_neg hc)⟩

/-- Settles O25: the checks in their order, then the store by `pop_admitted`. -/
theorem popMovesOneUnit : Obligations.PopMovesOneUnit := by
  intro i s hi hs
  rw [exec_engine_pop hi hs, ← advance_eq_ofNat]
  refine ⟨fun h0 => ?_, fun hpos hlen => ?_, fun hpos hlen hq => ?_, fun u q hpos hlen hq hrxp => ?_,
    fun u q hpos hlen hq hrxp hmem hadm => ?_, fun hpos hlen hne hrxp hadm => ?_⟩
  · rw [pop_of_lvl_zero h0]; rfl
  · rw [pop_of_cursor_past hpos hlen]; rfl
  · rw [pop_of_rxq_nil ⟨hpos, hlen⟩ hq]; rfl
  · rw [pop_discards ⟨hpos, hlen⟩ hq hrxp]; rfl
  · obtain ⟨m, r, hpop, -, hsub, hunit, hkept⟩ := pop_admitted ⟨hpos, hlen⟩ hq hrxp hmem hadm
    obtain ⟨hlo, hhi⟩ := holdsUnits_singleton.1 hunit
    rw [List.length_singleton, Nat.one_mul] at hkept
    exact ⟨m, r, by rw [hpop]; rfl, hlo, hhi, hkept, hsub⟩
  · rw [pop_refused ⟨hpos, hlen⟩ hne hrxp hadm]; rfl

/-- Settles O26: the unit read or zero, then the DR write with room or without. -/
theorem pushMovesOneUnit : Obligations.PushMovesOneUnit := by
  intro i s hi hs
  rw [exec_engine_push hi hs]
  refine ⟨fun htxp hroom => ?_, fun htxp hroom hadm => ?_, fun hfull hadm => ?_, fun htxp hadm => ?_⟩
  · rw [push_of_room (pushReads_zero htxp) hroom]; rfl
  · obtain ⟨v, n, hread, hlo, hhi, hone, hdraws⟩ := memRead_admitted (legUnit_cases s.leg) hadm
    have hread : PushReads s v n := (if_pos htxp).trans hread
    exact ⟨v, n, by rw [push_of_room hread hroom]; rfl, hlo, hhi, hone, fun hr => hdraws fun j _ => by simp [hr]⟩
  · obtain ⟨v, n, hread⟩ := exists_pushReads hadm
    exact ⟨n, by rw [push_of_full hread hfull]; rfl⟩
  · rw [push_refused htxp hadm]; rfl

end Sys2Proof.Machine
end

section
/-! SUPPORT. The engine with no other agent in between: the drain of EVT_IRQ, unit by unit of RXQ (R90 to R92,
R97), and the prime of TRANSFER_ONE, push by push (R90, R93, R95). -/

namespace Sys2Proof.Machine

/-- A run of no step ends where it stands. -/
theorem RunsTo.nil {i : Instr} {s t : State} (h : SameButDraw s t) : RunsTo [] i s t :=
  ⟨s.answer, by rw [blockRun, ← h.answer_eq]⟩

/-! ### The drain -/

/-- What a drain leaves: RXQ empty, the receive cursor and the counter moved by its units, memory m with the unsettled
addresses r (R91, R92). -/
def drained (s : State) (m : List Host.Cell) (r : List Nat) : State :=
  { s with
    ssp := { s.ssp with rxq := [] }
    rxc := BitVec.ofNat 32 (s.rxc.toNat + s.ssp.rxq.length * legUnit s.leg)
    fifoLvl := s.fifoLvl - s.ssp.rxq.length
    mem := m
    unsettled := r }

/-- RXQ fits in the counter, in the leg and in an admitted receive buffer. -/
def Drainable (s : State) : Prop :=
  MemInv s ∧ s.leg.rxp = true ∧ s.ssp.rxq.length ≤ s.fifoLvl ∧
    s.rxc.toNat + s.ssp.rxq.length * legUnit s.leg ≤ s.leg.len.toNat ∧
    ∀ k : Nat, s.rxc.toNat ≤ k → k < s.leg.len.toNat → admitted s (s.leg.rx.toNat + k) = true

theorem drained_of_rxq_nil {s : State} (hq : s.ssp.rxq = []) : drained s s.mem s.unsettled = s := by
  have hkept : { s.ssp with rxq := [] } = s.ssp := by rw [← hq]
  simp [drained, hkept, hq]

/-- A drain from the head of RXQ is a pop and the drain of the rest. -/
theorem drained_popped {s : State} {u : FifoUnit} {q : List FifoUnit} (hpop : PopReady s) (hq : s.ssp.rxq = u :: q)
    (m m' : List Host.Cell) (r r' : List Nat) : drained (popped s q m r) m' r' = drained s m' r' := by
  have hrxc := advance_toNat hpop.2
  have hcursor : s.rxc.toNat + legUnit s.leg + q.length * legUnit s.leg =
      s.rxc.toNat + (q.length + 1) * legUnit s.leg := by rw [Nat.succ_mul]; omega
  have hlvl : s.fifoLvl - 1 - q.length = s.fifoLvl - (q.length + 1) := by omega
  simp only [drained, popped, hrxc, hcursor, hlvl, hq, List.length_cons]

/-- The head of a drainable RXQ passes the checks of a pop, and the rest is drainable after it. -/
theorem Drainable.pop {s : State} {u : FifoUnit} {q : List FifoUnit} (h : Drainable s) (hq : s.ssp.rxq = u :: q) :
    PopReady s ∧ ∃ m r, Sys2Proof.Machine.pop s = .ok (popped s q m r) ∧ Drainable (popped s q m r) ∧
      (∀ b ∈ r, b ∈ s.unsettled) ∧ StoresUnits s.mem m (s.leg.rx.toNat + s.rxc.toNat) (legUnit s.leg) [u] := by
  obtain ⟨hmem, hrxp, hlvl, hlen, hadm⟩ := h
  rw [hq, List.length_cons] at hlvl hlen
  rw [Nat.succ_mul] at hlen
  have hready : PopReady s := ⟨by omega, by omega⟩
  obtain ⟨m, r, hpop, hkeep, hsub, hunit⟩ := pop_admitted hready hq hrxp hmem fun k hk => by
    rw [Nat.add_assoc]; exact hadm _ (by omega) (by omega)
  have hrxc : (popped s q m r).rxc.toNat = s.rxc.toNat + legUnit s.leg := advance_toNat hready.2
  refine ⟨hready, m, r, hpop, ⟨hkeep, hrxp, ?_, ?_, fun k hk hk' => hadm k (by omega) hk'⟩, hsub, hunit⟩
  · exact Nat.le_sub_one_of_lt hlvl
  · rw [hrxc]; exact (by omega : s.rxc.toNat + legUnit s.leg + q.length * legUnit s.leg ≤ s.leg.len.toNat)

/-- A drain alone reads SR and DR once for each unit of RXQ, and stores the units in order (R91, R92, R97). -/
theorem runsTo_drain (q : List FifoUnit) : ∀ {s : State} {bs : List Bool}, At (.evtIrq (.engine .sr)) s → Drainable s →
    s.ssp.rxq = q → bs.length = 2 * q.length →
    ∃ m r, RunsTo bs .evtIrq s (drained s m r) ∧ (∀ b ∈ r, b ∈ s.unsettled) ∧
      StoresUnits s.mem m (s.leg.rx.toNat + s.rxc.toNat) (legUnit s.leg) q := by
  induction q with
  | nil =>
    intro s bs h hd hq hlen
    obtain rfl : bs = [] := List.eq_nil_of_length_eq_zero hlen
    exact ⟨s.mem, s.unsettled, by rw [drained_of_rxq_nil hq]; exact .nil rfl, fun _ => id, storesUnits_nil ..⟩
  | cons u q ih =>
    intro s bs h hd hq hlen
    match bs, hlen with
    | b :: b' :: bs, hlen =>
      let v : State := { s with answer := b', ph := .evtIrq (.engine .pop) }
      obtain ⟨hready, m₁, r₁, hpop, hd', hsub, hunit⟩ := Drainable.pop (s := v) hd hq
      let w : State := moveTo (.evtIrq (.engine .sr)) (popped v q m₁ r₁)
      obtain ⟨m, r, hrest, hsub', hunits⟩ := ih (s := w) (bs := bs) ⟨h.1, rfl⟩ hd' rfl (by simp at hlen; omega)
      have hdrain : exec .evtIrq { s with answer := b } = .next _ := exec_engine_drain rfl h (by simp [hq])
      have hstep : exec .evtIrq v = .next w := by rw [exec_engine_pop (s := v) rfl ⟨h.1, rfl⟩, hpop]; rfl
      have hrxc : w.rxc.toNat = s.rxc.toNat + legUnit s.leg := advance_toNat hready.2
      have hend : drained w m r = moveTo s.ph (drained v m r) := by
        rw [h.2]; exact congrArg (moveTo _) (drained_popped hready hq ..)
      rw [hrxc, ← Nat.add_assoc] at hunits
      refine ⟨m, r, .cons hdrain h.1 rfl (.cons hstep h.1 rfl hrest rfl) ?_, fun a ha => hsub a (hsub' a ha),
        hunit.cons (legUnit_cases s.leg) hunits⟩
      rw [hend]; rfl

/-- Settles O28: the run of the drain, with its state and its memory written out. -/
theorem drainStoresUnitsInOrder : Obligations.DrainStoresUnitsInOrder := by
  intro s bs hs hmem _ hrxp hlvl hlen hadm hbs
  obtain ⟨m, r, ⟨a, hrun⟩, hsub, hunits, hkept⟩ := runsTo_drain _ hs ⟨hmem, hrxp, hlvl, hlen, hadm⟩ rfl hbs
  exact ⟨a, m, r, hrun, hsub, hunits, hkept⟩

/-! ### The prime -/

/-- The units the fill still has to push: min(FIFO_DEPTH - FIFOLVL, the leg's units from TXC on) (R95). -/
def unitsToPush (s : State) : Nat := min (8 - s.fifoLvl) ((s.leg.len.toNat - s.txc.toNat) / legUnit s.leg)

/-- What the pushes of the units us leave, no byte having been a draw (R93). -/
def primed (s : State) (us : List FifoUnit) : State :=
  { s with
    ssp := { s.ssp with txq := s.ssp.txq ++ us }
    txc := BitVec.ofNat 32 (s.txc.toNat + us.length * legUnit s.leg)
    fifoLvl := s.fifoLvl + us.length
    ph := .transferOne (.cr1 .read) }

/-- The geometry is whole units from the transmit cursor on, TXQ fits in the counter, and the rest of a transmit buffer
is admitted and not raced. -/
def Fillable (s : State) : Prop :=
  legUnit s.leg ∣ s.leg.len.toNat ∧ legUnit s.leg ∣ s.txc.toNat ∧ s.ssp.txq.length ≤ s.fifoLvl ∧
    (s.leg.txp = true → ∀ k : Nat, s.txc.toNat ≤ k → k < s.leg.len.toNat →
      admitted s (s.leg.tx.toNat + k) = true ∧ s.leg.tx.toNat + k ∉ s.raced)

/-- The units us are zero units without a transmit buffer, else those that lie in it from TXC on (R93, R95). -/
def SendsUnits (s : State) (us : List FifoUnit) : Prop :=
  (s.leg.txp = false → ∀ v ∈ us, v = 0) ∧
    (s.leg.txp = true → HoldsUnits s.mem (s.leg.tx.toNat + s.txc.toNat) (legUnit s.leg) us)

theorem primed_nil (s : State) : primed s [] = moveTo (.transferOne (.cr1 .read)) s := by simp [primed, moveTo]

/-- A push of the head and the pushes of the rest are those of the list. -/
theorem primed_pushed {s : State} (hle : s.txc.toNat + legUnit s.leg ≤ s.leg.len.toNat) (v : FifoUnit)
    (us : List FifoUnit) : primed (pushed s v s.draws) us = primed s (v :: us) := by
  have htxc := advance_toNat hle
  have hcursor : s.txc.toNat + legUnit s.leg + us.length * legUnit s.leg =
      s.txc.toNat + (us.length + 1) * legUnit s.leg := by rw [Nat.succ_mul]; omega
  have hlvl : s.fifoLvl + 1 + us.length = s.fifoLvl + (us.length + 1) := by omega
  simp only [primed, pushed, htxc, hcursor, hlvl, List.length_cons, List.append_assoc, List.singleton_append]

theorem unitsToPush_of_done {s : State} (h : ¬ fillMore s = true) : unitsToPush s = 0 := by
  rw [fillMore_iff, not_and_or, not_lt, not_lt] at h
  rcases h with h | h <;> simp [unitsToPush, Nat.sub_eq_zero_of_le h]

/-- A push leaves one unit fewer to push. -/
theorem unitsToPush_pushed {s : State} (h : fillMore s = true) (hle : s.txc.toNat + legUnit s.leg ≤ s.leg.len.toNat)
    (v : FifoUnit) (n : Nat) : unitsToPush s = unitsToPush (pushed s v n) + 1 := by
  have hlvl := (fillMore_iff.1 h).1
  have htxc : (pushed s v n).txc.toNat = s.txc.toNat + legUnit s.leg := advance_toNat hle
  simp only [unitsToPush, htxc]
  simp only [pushed]
  rcases legUnit_cases s.leg with hu | hu <;> rw [hu] at hle ⊢ <;> omega

/-- Where the fill goes on, a fillable state's push succeeds with the next unit and leaves it fillable (R93). -/
theorem Fillable.push {s : State} (h : Fillable s) (hmore : fillMore s = true) :
    s.txc.toNat + legUnit s.leg ≤ s.leg.len.toNat ∧ ∃ v, Sys2Proof.Machine.push s = .ok (pushed s v s.draws) ∧
      Fillable (pushed s v s.draws) ∧ SendsUnits s [v] := by
  obtain ⟨hdvd, hdvd', hlvl, hbuf⟩ := h
  obtain ⟨hroom, hlt⟩ := fillMore_iff.1 hmore
  have hle := add_unit_le hdvd' hdvd hlt
  have hfits : s.ssp.txq.length < fifoDepth := by unfold fifoDepth; omega
  have hread : ∃ v, PushReads s v s.draws ∧ SendsUnits s [v] := by
    cases htxp : s.leg.txp with
    | false => exact ⟨0, pushReads_zero htxp, by simp, fun hc => absurd (htxp.symm.trans hc) (by decide)⟩
    | true =>
      have hbytes (k : Nat) (hk : k < legUnit s.leg) := hbuf htxp (s.txc.toNat + k) (by omega) (by omega)
      simp only [← Nat.add_assoc] at hbytes
      obtain ⟨v, n, hread, hlo, hhi, -, hdraws⟩ :=
        memRead_admitted (legUnit_cases s.leg) fun k hk => (hbytes k hk).1
      obtain rfl := hdraws fun k hk => (hbytes k hk).2
      refine ⟨v, (if_pos htxp).trans hread, fun hc => absurd (htxp.symm.trans hc) (by decide), fun _ => ?_⟩
      refine holdsUnits_singleton.2 ⟨(hlo (hbytes 0 ?_).2).symm, fun h2 => (hhi h2 (hbytes 1 ?_).2).symm⟩
      · rcases legUnit_cases s.leg with hu | hu <;> omega
      · omega
  obtain ⟨v, hread, hsends⟩ := hread
  have htxc : (pushed s v s.draws).txc.toNat = s.txc.toNat + legUnit s.leg := advance_toNat hle
  refine ⟨hle, v, push_of_room hread hfits, ⟨hdvd, ?_, ?_, fun hp k hk => hbuf hp k (by omega)⟩, hsends⟩
  · rw [htxc]; exact hdvd'.add (dvd_refl _)
  · simpa [pushed] using hlvl

/-- The unit of a push and the units of the pushes after it are those of the list (R93). -/
theorem SendsUnits.cons {s : State} {v : FifoUnit} {us : List FifoUnit} {n : Nat}
    (hle : s.txc.toNat + legUnit s.leg ≤ s.leg.len.toNat) (h : SendsUnits s [v]) (hs : SendsUnits (pushed s v n) us) :
    SendsUnits s (v :: us) := by
  obtain ⟨hzero, hunit⟩ := h
  obtain ⟨hzeros, hunits⟩ := hs
  have htxc : (pushed s v n).txc.toNat = s.txc.toNat + legUnit s.leg := advance_toNat hle
  rw [htxc, ← Nat.add_assoc] at hunits
  exact ⟨fun hp => List.forall_mem_cons.2 ⟨hzero hp v (List.mem_singleton_self v), hzeros hp⟩,
    fun hp => (hunit hp).cons (hunits hp)⟩

/-- In TRANSFER_ONE the fill's test leads to a push or to the CR1 read (R90, R95). -/
theorem phaseOp_engineFilled_transferOne (s : State) : phaseOp (engineFilled .transferOne s).ph = some .transferOne := by
  rw [engineFilled]; split <;> rfl

/-- The fill alone makes one push for each unit it has room and bytes for, in order (R90, R93, R95). -/
theorem runsTo_fill (n : Nat) : ∀ {s : State} {bs : List Bool}, s.faults = [] → Fillable s → unitsToPush s = n →
    bs.length = n →
    ∃ us, us.length = n ∧ RunsTo bs .transferOne (engineFilled .transferOne s) (primed s us) ∧ SendsUnits s us := by
  induction n with
  | zero =>
    intro s bs hf hfill hn hlen
    obtain rfl : bs = [] := List.eq_nil_of_length_eq_zero hlen
    have hdone : ¬ fillMore s = true := fun hmore => by
      have := unitsToPush_pushed hmore (hfill.push hmore).1 0 0
      omega
    refine ⟨[], rfl, ?_, by simp, fun _ => holdsUnits_nil _ _ _⟩
    rw [engineFilled_of_done hdone, primed_nil]
    exact .nil rfl
  | succ n ih =>
    intro s bs hf hfill hn hlen
    have hmore : fillMore s = true := by
      by_contra hdone
      exact absurd ((unitsToPush_of_done hdone).symm.trans hn) (by omega)
    match bs, hlen with
    | b :: bs, hlen =>
      let v : State := { s with answer := b, ph := .transferOne (.engine .push) }
      obtain ⟨hle, u, hpush, hfill', hsends⟩ := Fillable.push (s := v) hfill hmore
      have hn' : unitsToPush v = unitsToPush (pushed v u v.draws) + 1 := unitsToPush_pushed hmore hle u v.draws
      obtain ⟨us, hus, hrest, hsends'⟩ := ih (s := pushed v u v.draws) (bs := bs) hf hfill'
        (Nat.succ.inj (hn'.symm.trans hn)) (Nat.succ.inj hlen)
      have hstep : exec .transferOne v = .next (engineFilled .transferOne (pushed v u v.draws)) := by
        rw [exec_engine_push (s := v) rfl ⟨hf, rfl⟩, hpush]; rfl
      have hfaults := (engineFilled_sameFaults (i := .transferOne) rfl (pushed v u v.draws)).1.trans hf
      rw [engineFilled_of_more hmore]
      refine ⟨u :: us, congrArg _ hus, ?_, SendsUnits.cons (s := v) hle hsends hsends'⟩
      exact .cons hstep hfaults (phaseOp_engineFilled_transferOne _) hrest (by rw [primed_pushed hle]; rfl)

/-- Settles O27: the SR read, then the run of the fill, with its state and its units written out. -/
theorem primeFillsTheFifo : Obligations.PrimeFillsTheFifo := by
  intro s bs hs hrxq hgeom hdvd _ _ htxq hbuf hlen
  match bs, hlen with
  | b :: bs, hlen =>
    let v : State := { s with answer := b }
    obtain ⟨us, hus, hrest, hzero, hsends⟩ := runsTo_fill (unitsToPush s) (s := v) (bs := bs) hs.1
      ⟨hgeom.2.2, hdvd, htxq, hbuf⟩ rfl (Nat.succ.inj hlen)
    have hread : exec .transferOne v = .next (engineFilled .transferOne v) := exec_engine_fill rfl hs hrxq
    have hfaults := (engineFilled_sameFaults (i := .transferOne) rfl v).1.trans hs.1
    obtain ⟨a, hrun⟩ : RunsTo (b :: bs) .transferOne s (primed s us) :=
      .cons hread hfaults (phaseOp_engineFilled_transferOne v) hrest rfl
    refine ⟨a, us, hus, hrun, fun k u hu => ⟨fun hp => hzero hp u (List.mem_of_getElem? hu), fun hp => ?_⟩⟩
    obtain ⟨hlo, hhi⟩ := hsends hp k u hu
    exact ⟨hlo.symm, fun h2 => (hhi h2).symm⟩

end Sys2Proof.Machine
end

section
/-! SUPPORT. The scatter-gather geometry of a leg (R100, R124): its segments one by one, their total, and where each
byte lies. -/

namespace Sys2Proof.Machine

theorem segmentOf_length (p : Params) (l : Leg) (d : Dir) (i : Nat) :
    (segmentOf p l d i).length = min p.pageSize (l.len.toNat - i * p.pageSize) := by
  unfold segmentOf; split <;> rfl

/-- A present buffer's segment is i pages into the buffer (R100). -/
theorem segmentOf_of_present {p : Params} {l : Leg} {d : Dir} (h : legPresent l d = true) (i : Nat) :
    (segmentOf p l d i).kind = .buf ∧ (segmentOf p l d i).addr = legAddr l d + i * p.pageSize := by simp [segmentOf, h]

/-- An absent buffer's segment is the start of the scratch page (R100). -/
theorem segmentOf_of_absent {p : Params} {l : Leg} {d : Dir} (h : legPresent l d = false) (i : Nat) :
    (segmentOf p l d i).kind = .scratch ∧ (segmentOf p l d i).addr = 0 := by simp [segmentOf, h]

theorem segmentsOf_length (p : Params) (l : Leg) (d : Dir) : (segmentsOf p l d).length = segCount p l := by
  simp [segmentsOf]

theorem getElem?_segmentsOf {p : Params} {l : Leg} {d : Dir} {i : Nat} {g : Seg} :
    (segmentsOf p l d)[i]? = some g ↔ i < segCount p l ∧ segmentOf p l d i = g := by
  simp only [segmentsOf, List.getElem?_map, Option.map_eq_some_iff, List.getElem?_eq_some_iff, List.length_range,
    List.getElem_range]
  exact ⟨fun ⟨_, ⟨hi, hj⟩, hg⟩ => ⟨hi, hj ▸ hg⟩, fun ⟨hi, hg⟩ => ⟨i, ⟨hi, rfl⟩, hg⟩⟩

/-- The pages of a leg's segments hold all its bytes (R100). -/
theorem len_le_segCount_mul {p : Params} (h : 0 < p.pageSize) (l : Leg) :
    l.len.toNat ≤ segCount p l * p.pageSize := by
  have hdiv := Nat.div_add_mod' (l.len.toNat + p.pageSize - 1) p.pageSize
  have hmod := Nat.mod_lt (l.len.toNat + p.pageSize - 1) h
  unfold segCount
  omega

/-- The segments from i on, where they reach the leg's end, hold the bytes from page i on. -/
theorem segTotal_from (p : Params) (l : Leg) (d : Dir) (n : Nat) : ∀ i : Nat, l.len.toNat ≤ (i + n) * p.pageSize →
    segTotal ((List.range' i n).map (segmentOf p l d)) = l.len.toNat - i * p.pageSize := by
  induction n with
  | zero => intro i h; exact (Nat.sub_eq_zero_of_le h).symm
  | succ n ih =>
    intro i h
    have hrest := ih (i + 1) (by rwa [Nat.add_right_comm])
    rw [Nat.succ_mul] at hrest
    rw [List.range'_succ, List.map_cons, segTotal, segmentOf_length, hrest]
    omega

/-- Byte m after page i lies m / PAGE_SIZE segments further on, at offset m % PAGE_SIZE (R124). -/
theorem segAt_from {p : Params} (hp : 0 < p.pageSize) (l : Leg) (d : Dir) (n : Nat) : ∀ i m : Nat,
    l.len.toNat ≤ (i + n) * p.pageSize → m < l.len.toNat - i * p.pageSize →
    segAt ((List.range' i n).map (segmentOf p l d)) m =
      some (segmentOf p l d (i + m / p.pageSize), m % p.pageSize) := by
  induction n with
  | zero => intro i m h hm; rw [Nat.add_zero] at h; omega
  | succ n ih =>
    intro i m h hm
    rw [List.range'_succ, List.map_cons, segAt, segmentOf_length]
    by_cases hpage : m < p.pageSize
    · rw [if_pos (lt_min hpage hm), Nat.div_eq_of_lt hpage, Nat.mod_eq_of_lt hpage, Nat.add_zero]
    · have hle : p.pageSize ≤ m := not_lt.1 hpage
      have hrest := ih (i + 1) (m - p.pageSize) (by rwa [Nat.add_right_comm]) (by rw [Nat.succ_mul]; omega)
      rw [Nat.add_assoc, Nat.add_comm 1, ← Nat.div_eq_sub_div hp hle, ← Nat.mod_eq_sub_mod hle] at hrest
      rwa [if_neg (by omega), min_eq_left (by omega)]

theorem segTotal_segmentsOf {p : Params} (h : 0 < p.pageSize) (l : Leg) (d : Dir) :
    segTotal (segmentsOf p l d) = l.len.toNat := by
  rw [segmentsOf, List.range_eq_range', segTotal_from, Nat.zero_mul, Nat.sub_zero]
  rw [Nat.zero_add]; exact len_le_segCount_mul h l

theorem segAt_segmentsOf {p : Params} (h : 0 < p.pageSize) (l : Leg) (d : Dir) {n : Nat} (hn : n < l.len.toNat) :
    segAt (segmentsOf p l d) n = some (segmentOf p l d (n / p.pageSize), n % p.pageSize) := by
  rw [segmentsOf, List.range_eq_range', segAt_from h, Nat.zero_add]
  · rw [Nat.zero_add]; exact len_le_segCount_mul h l
  · rwa [Nat.zero_mul, Nat.sub_zero]

/-- Settles O33: count, total, the segments one by one, and the segment of each byte. -/
theorem segmentsCoverTheLeg : Obligations.SegmentsCoverTheLeg := by
  intro p l d hp
  have hcover := len_le_segCount_mul hp l
  refine ⟨segmentsOf_length p l d, fun hlen => ?_, segTotal_segmentsOf hp l d, fun i g hg => ?_, fun n hn => ?_⟩
  · rw [segmentsOf_length]
    exact Nat.pos_of_mul_pos_right (by omega : 0 < segCount p l * p.pageSize)
  · obtain ⟨-, rfl⟩ := getElem?_segmentsOf.1 hg
    exact ⟨segmentOf_length p l d i, fun h => segmentOf_of_present h i, fun h => segmentOf_of_absent h i⟩
  · have hpage : n / p.pageSize < segCount p l :=
      Nat.div_lt_of_lt_mul (by rw [Nat.mul_comm]; exact hn.trans_le hcover)
    exact ⟨_, getElem?_segmentsOf.2 ⟨hpage, rfl⟩, segAt_segmentsOf hp l d hn⟩

end Sys2Proof.Machine
end

section
/-! SUPPORT. The DMA start request by request (R101, R102): where each leads when it is granted or refused. -/

namespace Sys2Proof.Machine

@[simp] theorem setChan_setChan (s : State) (d : Dir) (c c' : Chan) :
    setChan (setChan s d c) d c' = setChan s d c' := by cases d <;> rfl

/-- A write of a channel and a move of PH do not depend on the position left. -/
theorem moveTo_setChan_moveTo (p q : Phase) (s : State) (d : Dir) (c : Chan) :
    moveTo p (setChan (moveTo q s) d c) = moveTo p (setChan s d c) := by cases d <;> rfl

@[simp] theorem chan_moveTo (p : Phase) (s : State) (d : Dir) : chan (moveTo p s) d = chan s d := by cases d <;> rfl

/-- At a position of the DMA start, with no fault, TRANSFER_ONE takes its step. -/
theorem exec_dma {k : DmaPos} {s : State} (h : At (dmaAt k) s) : exec .transferOne s = .next (dmaStep k s) :=
  exec_of_at h rfl

/-- A channel after its SlaveConfig request: DR's address, the leg's unit as width, the direction (R99, R101). -/
def configured (s : State) (d : Dir) : Chan :=
  { chan s d with
    slave := some { addr := s.params.sspBase + 8, width := legUnit s.leg, direction := slaveDirection d } }

/-- On the same segment count SlaveConfig leads to Map, with the table's contents refreshed (R101). -/
theorem dmaStep_slaveConfig_reuse {s : State} {d : Dir} (h : segCount s.params s.leg = (chan s d).segs.length) :
    dmaStep (.slaveConfig d) s = moveTo (dmaAt (.map d))
      (setChan s d { configured s d with segs := segmentsOf s.params s.leg d }) := by
  have hcount : segCount s.params s.leg = nents (configured s d) := h
  have hstep : dmaStep (.slaveConfig d) s = prepTable d (setChan s d (configured s d)) := rfl
  rw [hstep, prepTable, chan_setChan, setChan_params, setChan_leg, if_pos hcount, setTable, setChan_setChan,
    chan_setChan]

/-- On another segment count SlaveConfig leads to AllocTable, with the table freed (R101). -/
theorem dmaStep_slaveConfig_realloc {s : State} {d : Dir} (h : segCount s.params s.leg ≠ (chan s d).segs.length) :
    dmaStep (.slaveConfig d) s = moveTo (dmaAt (.allocTable d)) (setChan s d { configured s d with segs := [] }) := by
  have hcount : ¬ segCount s.params s.leg = nents (configured s d) := h
  have hstep : dmaStep (.slaveConfig d) s = prepTable d (setChan s d (configured s d)) := rfl
  rw [hstep, prepTable, chan_setChan, setChan_params, setChan_leg, if_neg hcount, setTable, setChan_setChan,
    chan_setChan]

theorem dmaStep_allocTable_granted {s : State} (d : Dir) (h : s.answer = true) :
    dmaStep (.allocTable d) s = moveTo (dmaAt (.map d))
      (setChan s d { chan s d with segs := segmentsOf s.params s.leg d, reallocs := (chan s d).reallocs + 1 }) :=
  if_pos h

theorem dmaStep_map_granted {s : State} (d : Dir) (h : s.answer = true) :
    dmaStep (.map d) s = moveTo (dmaAt (.prep d)) (setMapped s d true) := if_pos h

theorem dmaStep_prep_granted {s : State} (d : Dir) (h : s.answer = true) :
    dmaStep (.prep d) s = prepOk (setDesc s d .prepared) d := if_pos h

theorem dmaStep_submit_granted {s : State} (d : Dir) (h : s.answer = true) :
    dmaStep (.submit d) s = submitOk (setDesc s d .submitted) d := if_pos h

theorem dmaStep_prep_refused {s : State} (d : Dir) (h : s.answer = false) :
    dmaStep (.prep d) s = moveTo (dmaAt (.unmapFailed d)) s := if_neg (by simp [h])

/-- A refused AllocTable, Map or Submit starts the unwinding (R101, R102). -/
theorem dmaStep_refused {k : DmaPos} {s : State} {d : Dir} (hk : k = .allocTable d ∨ k = .map d ∨ k = .submit d)
    (h : s.answer = false) : dmaStep k s = dmaUnwind s := by
  rcases hk with rfl | rfl | rfl <;> exact if_neg (by simp [h])

/-- Settles O30: request by request. -/
theorem dmaPrepareSteps : Obligations.DmaPrepareSteps := by
  intro s d
  refine ⟨fun hs => ?_, fun hs ha => ?_, fun hs ha => ?_, fun hs ha => ?_, fun hs ha => ?_, fun hs ha => ?_,
    fun hs => exec_dma hs⟩
  · rw [exec_dma hs]
    by_cases hcount : segCount s.params s.leg = (chan s d).segs.length
    · rw [dmaStep_slaveConfig_reuse hcount, if_pos hcount, if_pos hcount]; cases d <;> rfl
    · rw [dmaStep_slaveConfig_realloc hcount, if_neg hcount, if_neg hcount]; cases d <;> rfl
  · rw [exec_dma hs, dmaStep_allocTable_granted d ha]
  · rw [exec_dma hs, dmaStep_map_granted d ha, setMapped]
  · rw [exec_dma hs, dmaStep_prep_granted d ha]; cases d <;> rfl
  · rw [exec_dma hs, dmaStep_prep_refused d ha]
  · rcases hs with hs | hs
    · rw [exec_dma hs, dmaStep_refused (.inl rfl) ha]
    · rw [exec_dma hs, dmaStep_refused (.inr (.inl rfl)) ha]

end Sys2Proof.Machine
end

section
/-! SUPPORT. The DMA start's tables and its length (R101 to R103, R105): each step builds or frees a table, or keeps
both and is nearer to the end (DmaProgress); and no other instruction's step comes to a table. -/

namespace Sys2Proof.Machine

/-- A direction's segments and its reallocation count (R34). -/
def tableOf (s : State) (d : Dir) : List Seg × Nat := ((chan s d).segs, (chan s d).reallocs)

/-- A bound on the steps from a position of the DMA start to its end, whatever the draws (R101 to R103). -/
def dmaRank : DmaPos → Nat
  | .slaveConfig .rx => 15 | .allocTable .rx => 14 | .map .rx => 13 | .prep .rx => 12
  | .slaveConfig .tx => 11 | .allocTable .tx => 10 | .map .tx => 9 | .prep .tx => 8
  | .setCallback => 7 | .submit .rx => 6 | .submit .tx => 5 | .unmapFailed _ => 5
  | .unwindTerminate .tx => 4 | .unwindTerminate .rx => 3 | .unwindUnmap .tx => 2 | .unwindUnmap .rx => 1
  | .issue .rx => 2 | .issue .tx => 1

/-- Is PH where a table is asked for or about to be mapped? -/
def atTable : Phase → Bool
  | .transferOne (.dma (.allocTable _)) | .transferOne (.dma (.map _)) => true
  | _ => false

/-- Both tables are kept, and PH is at a position with a bound below n and no table, or the start has failed. -/
structure DmaDescends (n : Nat) (s t : State) : Prop where
  table : ∀ d, tableOf t d = tableOf s d
  next : (∃ j, t.ph = dmaAt j ∧ dmaRank j < n ∧ atTable t.ph = false) ∨ (t.ph = .ready ∧ t.lastRes = .dmaPrepareFailed)

/-- A position is entered with both tables as they were. -/
theorem moveTo_dmaDescends {n : Nat} {s u : State} {k : DmaPos} (htable : ∀ d, tableOf u d = tableOf s d)
    (hk : dmaRank k < n) (hno : atTable (dmaAt k) = false) : DmaDescends n s (moveTo (dmaAt k) u) :=
  ⟨fun d => by rw [← htable d, tableOf, chan_moveTo]; rfl, .inl ⟨k, rfl, hk, hno⟩⟩

theorem DmaDescends.after {n m : Nat} {s u t : State} (h : DmaDescends n u t) (htable : ∀ d, tableOf u d = tableOf s d)
    (hle : n ≤ m) : DmaDescends m s t :=
  ⟨fun d => (h.table d).trans (htable d), h.next.imp_left fun ⟨j, hj, hlt, hno⟩ => ⟨j, hj, hlt.trans_le hle, hno⟩⟩

/-- A write of a channel that keeps its table keeps both directions'. -/
theorem tableOf_setChan {s : State} {d : Dir} {c : Chan} (h : (c.segs, c.reallocs) = tableOf s d) (e : Dir) :
    tableOf (setChan s d c) e = tableOf s e := by
  cases d <;> cases e
  · exact h
  · rfl
  · rfl
  · exact h

/-! ### The unwinding -/

theorem unwindUnmapRx_dmaDescends (s : State) : DmaDescends 2 s (unwindUnmapRx s) := by
  unfold unwindUnmapRx
  split
  · exact moveTo_dmaDescends (fun _ => rfl) (by decide) rfl
  · exact ⟨fun d => by cases d <;> rfl, .inr ⟨rfl, rfl⟩⟩

theorem unwindTables_dmaDescends (s : State) : DmaDescends 3 s (unwindTables s) := by
  have hcb (d : Dir) : tableOf { s with cb := false } d = tableOf s d := by cases d <;> rfl
  unfold unwindTables unwindUnmapTx
  split
  · exact moveTo_dmaDescends hcb (by decide) rfl
  · exact (unwindUnmapRx_dmaDescends _).after hcb (by decide)

theorem unwindDescRx_dmaDescends (s : State) : DmaDescends 4 s (unwindDescRx s) := by
  unfold unwindDescRx
  split
  · exact moveTo_dmaDescends (fun _ => rfl) (by decide) rfl
  · exact (unwindTables_dmaDescends _).after (tableOf_setChan rfl) (by decide)

/-- DmaUnwind takes at most four steps and keeps the tables' allocation (R103). -/
theorem dmaUnwind_dmaDescends (s : State) : DmaDescends 5 s (dmaUnwind s) := by
  unfold dmaUnwind
  split
  · exact moveTo_dmaDescends (fun _ => rfl) (by decide) rfl
  · exact (unwindDescRx_dmaDescends _).after (tableOf_setChan rfl) (by decide)

/-! ### The start -/

/-- What a step of the DMA start does to the tables, and how it comes nearer to its end. -/
inductive DmaProgress : DmaPos → State → State → Prop
  | reused {s d} : segCount s.params s.leg = (chan s d).segs.length →
      DmaProgress (.slaveConfig d) s
        (moveTo (dmaAt (.map d)) (setChan s d { configured s d with segs := segmentsOf s.params s.leg d }))
  | freed {s d} : segCount s.params s.leg ≠ (chan s d).segs.length →
      DmaProgress (.slaveConfig d) s (moveTo (dmaAt (.allocTable d)) (setChan s d { configured s d with segs := [] }))
  | allocated {s d} : s.answer = true →
      DmaProgress (.allocTable d) s
        (moveTo (dmaAt (.map d))
          (setChan s d { chan s d with segs := segmentsOf s.params s.leg d, reallocs := (chan s d).reallocs + 1 }))
  | armed {s} : DmaProgress (.issue .tx) s
      (returned .wait { issued s .tx with legMode := .dma, fsm := .transferActive })
  | kept {k s t} : DmaDescends (dmaRank k) s t → (∀ d, k = .allocTable d → s.answer = false) → DmaProgress k s t

theorem dmaStep_progress (k : DmaPos) (s : State) : DmaProgress k s (dmaStep k s) := by
  cases k with
  | slaveConfig d =>
    by_cases h : segCount s.params s.leg = (chan s d).segs.length
    · rw [dmaStep_slaveConfig_reuse h]; exact .reused h
    · rw [dmaStep_slaveConfig_realloc h]; exact .freed h
  | allocTable d =>
    cases ha : s.answer with
    | true => rw [dmaStep_allocTable_granted d ha]; exact .allocated ha
    | false =>
      rw [dmaStep_refused (.inl rfl) ha]
      exact .kept ((dmaUnwind_dmaDescends s).after (fun _ => rfl) (by cases d <;> decide)) fun _ _ => ha
  | map d =>
    refine .kept ?_ nofun
    cases ha : s.answer with
    | true =>
      rw [dmaStep_map_granted d ha]
      exact moveTo_dmaDescends (tableOf_setChan rfl) (by cases d <;> decide) (by cases d <;> rfl)
    | false =>
      rw [dmaStep_refused (.inr (.inl rfl)) ha]
      exact (dmaUnwind_dmaDescends s).after (fun _ => rfl) (by cases d <;> decide)
  | prep d =>
    refine .kept ?_ nofun
    cases ha : s.answer with
    | true =>
      rw [dmaStep_prep_granted d ha]
      cases d <;> exact moveTo_dmaDescends (tableOf_setChan rfl) (by decide) rfl
    | false =>
      rw [dmaStep_prep_refused d ha]
      exact moveTo_dmaDescends (fun _ => rfl) (by cases d <;> decide) rfl
  | unmapFailed d => exact .kept ((dmaUnwind_dmaDescends _).after (tableOf_setChan rfl) le_rfl) nofun
  | setCallback => exact .kept (moveTo_dmaDescends (fun d => by cases d <;> rfl) (by decide) rfl) nofun
  | submit d =>
    refine .kept ?_ nofun
    cases ha : s.answer with
    | true =>
      rw [dmaStep_submit_granted d ha]
      cases d <;> exact moveTo_dmaDescends (tableOf_setChan rfl) (by decide) rfl
    | false =>
      rw [dmaStep_refused (.inr (.inr rfl)) ha]
      exact (dmaUnwind_dmaDescends s).after (fun _ => rfl) (by cases d <;> decide)
  | issue d =>
    cases d
    · exact .kept (moveTo_dmaDescends (tableOf_setChan rfl) (by decide) rfl) nofun
    · exact .armed
  | unwindTerminate d =>
    refine .kept ?_ nofun
    cases d
    · exact (unwindTables_dmaDescends _).after (tableOf_setChan rfl) (by decide)
    · exact (unwindDescRx_dmaDescends _).after (tableOf_setChan rfl) (by decide)
  | unwindUnmap d =>
    refine .kept ?_ nofun
    cases d
    · exact ⟨tableOf_setChan rfl, .inr ⟨rfl, rfl⟩⟩
    · exact (unwindUnmapRx_dmaDescends _).after (tableOf_setChan rfl) (by decide)

/-! ### The other instructions -/

theorem phaseOp_of_atTable {p : Phase} (h : atTable p = true) : phaseOp p = some .transferOne := by
  unfold atTable at h
  split at h
  · rfl
  · rfl
  · cases h

/-- ATTACH keeps a reallocation count or sets it to 0 (R81). -/
theorem BlockStep.reallocs_attach {s t : State} (h : BlockStep .attach s t) (d : Dir) :
    (chan t d).reallocs = (chan s d).reallocs ∨ (chan t d).reallocs = 0 := by
  have release (u : State) : (chan (attachRelease u) d).reallocs = (chan u d).reallocs ∨
      (chan (attachRelease u) d).reallocs = 0 := by
    rcases attachRelease_cases u with ⟨-, h⟩ | ⟨-, h⟩ <;> rw [h]
    · exact .inl (by cases d <;> rfl)
    · exact .inr (by cases d <;> rfl)
  cases h with
  | badState | attachStart => exact .inl (by cases d <;> rfl)
  | attachFirst =>
    split
    · exact .inl (by cases d <;> rfl)
    · exact (release _).imp_left (Eq.trans · (by cases d <;> rfl))
  | attachRx =>
    split
    · exact .inl (by cases d <;> rfl)
    · exact release s
  | attachTx =>
    split
    · exact .inr (by cases d <;> rfl)
    · exact release s
  | attachReleased => exact .inr (by cases d <;> rfl)
  | engineDrain hi | engineFill hi | enginePop hi | enginePopFault hi | enginePush hi | enginePushFault hi => cases hi

/-- TRANSFER_ONE keeps both channels outside its DMA start, and is at no table (R87, R89, R95). -/
theorem BlockStep.chans_transferOne {s t : State} (h : BlockStep .transferOne s t) (hdma : ∀ k, s.ph ≠ dmaAt k) :
    atTable t.ph = false ∧ t.rx = s.rx ∧ t.tx = s.tx := by
  have filled (u : State) : atTable (engineFilled .transferOne u).ph = false ∧
      (engineFilled .transferOne u).rx = u.rx ∧ (engineFilled .transferOne u).tx = u.tx := by
    unfold engineFilled; split <;> exact ⟨rfl, rfl, rfl⟩
  cases h with
  | badState hp => exact ⟨congrArg atTable hp, rfl, rfl⟩
  | transferCr0 => rcases transferPathState_cases _ with h | h <;> rw [h] <;> exact ⟨rfl, rfl, rfl⟩
  | transferDma hp => exact absurd hp (hdma _)
  | engineFill => exact filled s
  | enginePop _ _ hq => obtain ⟨u, q, m, r, -, -, -, rfl, -⟩ := pop_ok hq; exact ⟨rfl, rfl, rfl⟩
  | enginePush _ _ hq => obtain ⟨v, n, -, rfl⟩ := push_ok hq; exact filled _
  | enginePopFault _ hp | enginePushFault _ hp => exact ⟨congrArg atTable hp, rfl, rfl⟩
  | transferUnwritten | transferMalformed | transferNoRate | transferLatch | transferCpsr | transferCr1Read
  | transferCr1Write | engineDrain => exact ⟨rfl, rfl, rfl⟩

/-- Outside the DMA start no step comes to a table, and only ATTACH writes a reallocation count (R81, R105). -/
theorem BlockStep.reallocs_of_not_dma {i : Instr} {s t : State} (h : BlockStep i s t)
    (hdma : ∀ k, i = .transferOne → s.ph ≠ dmaAt k) :
    atTable t.ph = false ∧
      ∀ d, (chan t d).reallocs = (chan s d).reallocs ∨ (i = .attach ∧ (chan t d).reallocs = 0) := by
  by_cases hi : i = .transferOne
  · subst hi
    obtain ⟨hno, hrx, htx⟩ := h.chans_transferOne fun k => hdma k rfl
    exact ⟨hno, fun d => .inl (by cases d <;> simp [hrx, htx])⟩
  · refine ⟨?_, fun d => ?_⟩
    · by_contra hc
      have hop := phaseOp_of_atTable (Bool.eq_true_of_not_eq_false hc)
      rcases h.phase_next with hp | hp
      · rw [hp] at hop; cases hop
      · exact hi (Option.some.inj (hp.symm.trans hop))
    · by_cases ha : i = .attach
      · subst ha; exact (h.reallocs_attach d).imp_right fun h0 => ⟨rfl, h0⟩
      · refine .inl ?_
        rw [h.instrFrame.eq]
        cases i with
        | attach => exact absurd rfl ha
        | transferOne => exact absurd rfl hi
        | _ => cases d <;> rfl

/-! ### Reallocation -/

theorem DmaDescends.atTable_eq_false {n : Nat} {s t : State} (h : DmaDescends n s t) : atTable t.ph = false := by
  rcases h.next with ⟨_, -, -, hno⟩ | ⟨hready, -⟩
  · exact hno
  · rw [hready]; rfl

/-- The count grows by one at a granted AllocTable of the direction and is kept at every other step (R105). -/
theorem DmaProgress.reallocs {k : DmaPos} {s t : State} (h : DmaProgress k s t) (d : Dir) :
    (k = .allocTable d ∧ s.answer = true ∧ (chan t d).reallocs = (chan s d).reallocs + 1) ∨
      (¬ (k = .allocTable d ∧ s.answer = true) ∧ (chan t d).reallocs = (chan s d).reallocs) := by
  cases h with
  | @reused _ e | @freed _ e => exact .inr ⟨by simp, by cases d <;> cases e <;> rfl⟩
  | @allocated _ e ha =>
    by_cases he : e = d
    · subst he
      exact .inl ⟨rfl, ha, by rw [chan_moveTo, chan_setChan]⟩
    · refine .inr ⟨fun hk => he (DmaPos.allocTable.inj hk.1), ?_⟩
      cases d <;> cases e
      · exact absurd rfl he
      · rfl
      · rfl
      · exact absurd rfl he
  | armed => exact .inr ⟨by simp, by cases d <;> rfl⟩
  | kept hdesc hrefused =>
    exact .inr ⟨fun ⟨hk, ha⟩ => by simp [hrefused d hk] at ha, congrArg Prod.snd (hdesc.table d)⟩

/-- AllocTable is reached from the direction's SlaveConfig alone, on another segment count (R101, R105). -/
theorem DmaProgress.to_allocTable {k : DmaPos} {s t : State} {d : Dir} (h : DmaProgress k s t)
    (hp : t.ph = dmaAt (.allocTable d)) : k = .slaveConfig d ∧ segCount s.params s.leg ≠ (chan s d).segs.length := by
  cases h with
  | freed hcount => cases hp; exact ⟨rfl, hcount⟩
  | reused | allocated | armed => cases hp
  | kept hdesc => have hno := hdesc.atTable_eq_false; rw [hp] at hno; cases hno

/-- Map is reached with the leg's segments in the table (R101, R105). -/
theorem DmaProgress.to_map {k : DmaPos} {s t : State} {d : Dir} (h : DmaProgress k s t)
    (hp : t.ph = dmaAt (.map d)) : (chan t d).segs = segmentsOf s.params s.leg d := by
  cases h with
  | reused | allocated => cases hp; rw [chan_moveTo, chan_setChan]
  | freed | armed => cases hp
  | kept hdesc => have hno := hdesc.atTable_eq_false; rw [hp] at hno; cases hno

/-- Settles O34: the DMA start's steps by DmaProgress, every other step as one that comes to no table. -/
theorem tablesReallocateOnNewCount : Obligations.TablesReallocateOnNewCount := by
  intro i s t d h
  obtain ⟨hfaults, hblock⟩ := exec_next h
  by_cases hdma : i = .transferOne ∧ ∃ k, s.ph = dmaAt k
  · obtain ⟨rfl, k, hk⟩ := hdma
    have ht : dmaStep k s = t := by
      have hexec := (exec_dma ⟨hfaults, hk⟩).symm.trans h
      cases hexec; rfl
    have hprog : DmaProgress k s t := ht ▸ dmaStep_progress k s
    have hcount := hprog.reallocs d
    have hpos : s.ph = dmaAt (.allocTable d) ↔ k = .allocTable d := by rw [hk]; simp [dmaAt]
    refine ⟨?_, fun hne hne' => ?_, fun hp _ => ?_, fun hp _ => hprog.to_map hp⟩
    · rw [hpos]
      rcases hcount with ⟨hkd, ha, hr⟩ | ⟨hng, hr⟩
      · exact ⟨fun _ => ⟨rfl, hkd, ha⟩, fun _ => hr⟩
      · exact ⟨fun hr' => by omega, fun hg => absurd hg.2 hng⟩
    · rcases hcount with ⟨-, -, hr⟩ | ⟨-, hr⟩
      · exact absurd hr hne
      · exact absurd hr hne'
    · obtain ⟨rfl, hnew⟩ := hprog.to_allocTable hp
      exact ⟨hk, hnew⟩
  · obtain ⟨hno, hkept⟩ := hblock.reallocs_of_not_dma fun k hi hk => hdma ⟨hi, k, hk⟩
    refine ⟨⟨fun hr => ?_, fun hg => absurd ⟨hg.1, _, hg.2.1⟩ hdma⟩, fun _ hne => (hkept d).resolve_left hne,
      fun hp _ => ?_, fun hp _ => ?_⟩
    · rcases hkept d with hr' | ⟨-, hr'⟩ <;> omega
    · rw [hp] at hno; cases hno
    · rw [hp] at hno; cases hno

end Sys2Proof.Machine
end

section
/-! SUPPORT. The DMA start with no other agent in between: granted throughout (R102), and whatever the draws (R102,
R103, R140). -/

namespace Sys2Proof.Machine

/-! ### Every request granted -/

/-- With n draws or more, all granted, BLOCK running TRANSFER_ONE alone ends in t. -/
def GrantsTo (n : Nat) (s t : State) : Prop :=
  ∀ m, n ≤ m → RunsTo (List.replicate m true) .transferOne s t

theorem GrantsTo.mono {n n' : Nat} {s t : State} (h : GrantsTo n s t) (hle : n ≤ n') : GrantsTo n' s t :=
  fun m hm => h m (hle.trans hm)

/-- In a state whose draw is a grant the DMA start takes the granted step. -/
theorem exec_dma_granted {k : DmaPos} {s : State} (h : At (dmaAt k) s) (ha : s.answer = true) :
    exec .transferOne { s with answer := true } = .next (dmaStep k s) := by
  have hsame : { s with answer := true } = s := by cases s; cases ha; rfl
  rw [hsame, exec_dma h]

/-- A granted step to another position of the DMA start is followed by the rest of the run. -/
theorem GrantsTo.step {k j : DmaPos} {n : Nat} {s u t : State} (h : At (dmaAt k) s) (ha : s.answer = true)
    (hstep : dmaStep k s = u) (hu : u.ph = dmaAt j) (hrest : GrantsTo n u t) : GrantsTo (n + 1) s t := by
  intro m hm
  obtain ⟨m, rfl⟩ := Nat.exists_eq_succ_of_ne_zero (by omega : m ≠ 0)
  have hfaults : u.faults = [] := by rw [← hstep, (dmaStep_dmaFrame k s).eq]; exact h.1
  exact .cons (hstep ▸ exec_dma_granted h ha) hfaults (by rw [hu]; rfl) (hrest m (Nat.le_of_succ_le_succ hm)) rfl

/-- A granted step back to PH = Ready ends the run. -/
theorem GrantsTo.last {k : DmaPos} {s u : State} (h : At (dmaAt k) s) (ha : s.answer = true) (hstep : dmaStep k s = u)
    (hu : u.ph = .ready) : GrantsTo 1 s u := by
  intro m hm
  obtain ⟨m, rfl⟩ := Nat.exists_eq_succ_of_ne_zero (by omega : m ≠ 0)
  exact .last (hstep ▸ exec_dma_granted h ha) hu rfl

/-- A direction whose table DmaPrep has built for the leg, reallocated exactly on another segment count (R101). -/
def tabled (s : State) (d : Dir) : Chan :=
  { configured s d with
    segs := segmentsOf s.params s.leg d
    reallocs := (chan s d).reallocs + (if segCount s.params s.leg = (chan s d).segs.length then 0 else 1) }

/-- A direction that DmaPrep has prepared (R101). -/
def readied (s : State) (d : Dir) : Chan := { tabled s d with mapped := true, desc := .prepared }

/-- A prepared direction, submitted and issued (R102, R124). -/
def launched (c : Chan) : Chan := { c with desc := .issued, moved := 0 }

theorem slaveConfig_reuse_tabled {s : State} {d : Dir} (h : segCount s.params s.leg = (chan s d).segs.length) :
    dmaStep (.slaveConfig d) s = moveTo (dmaAt (.map d)) (setChan s d (tabled s d)) := by
  rw [dmaStep_slaveConfig_reuse h, tabled, if_pos h]; rfl

/-- A granted AllocTable after SlaveConfig builds the table (R101). -/
theorem allocTable_tabled {s : State} {d : Dir} (ha : s.answer = true)
    (h : segCount s.params s.leg ≠ (chan s d).segs.length) :
    dmaStep (.allocTable d) (moveTo (dmaAt (.allocTable d)) (setChan s d { configured s d with segs := [] })) =
      moveTo (dmaAt (.map d)) (setChan s d (tabled s d)) := by
  rw [dmaStep_allocTable_granted d (by simpa using ha), moveTo_setChan_moveTo, setChan_setChan, chan_moveTo,
    chan_setChan, moveTo_params, moveTo_leg, setChan_params, setChan_leg, tabled, if_neg h]
  rfl

theorem map_tabled {s : State} (d : Dir) (ha : s.answer = true) :
    dmaStep (.map d) (moveTo (dmaAt (.map d)) (setChan s d (tabled s d))) =
      moveTo (dmaAt (.prep d)) (setChan s d { tabled s d with mapped := true }) := by
  rw [dmaStep_map_granted d (by simpa using ha), setMapped, moveTo_setChan_moveTo, setChan_setChan, chan_moveTo,
    chan_setChan]

theorem prep_readied {s : State} (d : Dir) (ha : s.answer = true) :
    dmaStep (.prep d) (moveTo (dmaAt (.prep d)) (setChan s d { tabled s d with mapped := true })) =
      prepOk (setChan s d (readied s d)) d := by
  rw [dmaStep_prep_granted d (by simpa using ha), setDesc, chan_moveTo, chan_setChan]
  cases d
  · exact (moveTo_setChan_moveTo ..).trans (by rw [setChan_setChan]; rfl)
  · exact (moveTo_setChan_moveTo ..).trans (by rw [setChan_setChan]; rfl)

/-- From Map on, the built table is mapped and the descriptor prepared (R101). -/
theorem grantsTo_dma_of_map {d : Dir} {n : Nat} {j : DmaPos} {s t : State} (hfaults : s.faults = [])
    (ha : s.answer = true) (hnext : (prepOk (setChan s d (readied s d)) d).ph = dmaAt j)
    (hrest : GrantsTo n (prepOk (setChan s d (readied s d)) d) t) :
    GrantsTo (n + 2) (moveTo (dmaAt (.map d)) (setChan s d (tabled s d))) t := by
  have hprep := hrest.step ⟨by simpa using hfaults, moveTo_ph ..⟩ (by simpa using ha) (prep_readied d ha) hnext
  exact hprep.step ⟨by simpa using hfaults, moveTo_ph ..⟩ (by simpa using ha) (map_tabled d ha) (moveTo_ph ..)

/-- DmaPrep granted throughout takes three steps, or four with a reallocation (R101). -/
theorem grantsTo_dmaPrep {d : Dir} {n : Nat} {j : DmaPos} {s t : State} (h : At (dmaAt (.slaveConfig d)) s)
    (ha : s.answer = true) (hnext : (prepOk (setChan s d (readied s d)) d).ph = dmaAt j)
    (hrest : GrantsTo n (prepOk (setChan s d (readied s d)) d) t) : GrantsTo (n + 4) s t := by
  have hmap := grantsTo_dma_of_map h.1 ha hnext hrest
  by_cases hcount : segCount s.params s.leg = (chan s d).segs.length
  · exact (hmap.step h ha (slaveConfig_reuse_tabled hcount) (moveTo_ph ..)).mono (Nat.le_succ _)
  · have halloc := hmap.step ⟨by simpa using h.1, moveTo_ph ..⟩ (by simpa using ha) (allocTable_tabled ha hcount)
      (moveTo_ph ..)
    exact halloc.step h ha (dmaStep_slaveConfig_realloc hcount) (moveTo_ph ..)

/-- The DMA start after its callback: PH at position k, and both channels as given. -/
def dmaTail (s : State) (k : DmaPos) (rx tx : Chan) : State := { s with rx := rx, tx := tx, cb := true, ph := dmaAt k }

/-- What a DMA start with every request granted leaves (R102). -/
def dmaArmed (s : State) (rx tx : Chan) : State :=
  returned .wait { s with rx := launched rx, tx := launched tx, cb := true, legMode := .dma, fsm := .transferActive }

/-- From the first Submit on, both descriptors are submitted and issued and the leg is armed (R102). -/
theorem grantsTo_dmaTail {s : State} (hfaults : s.faults = []) (ha : s.answer = true) (rx tx : Chan) :
    GrantsTo 4 (dmaTail s (.submit .rx) rx tx) (dmaArmed s rx tx) := by
  have hissueTx : GrantsTo 1
      (dmaTail s (.issue .tx) { rx with desc := .issued, moved := 0 } { tx with desc := .submitted })
      (dmaArmed s rx tx) := .last ⟨hfaults, rfl⟩ ha rfl rfl
  have hissueRx : GrantsTo 2 (dmaTail s (.issue .rx) { rx with desc := .submitted } { tx with desc := .submitted }) _ :=
    hissueTx.step ⟨hfaults, rfl⟩ ha rfl rfl
  have hsubmitTx : GrantsTo 3 (dmaTail s (.submit .tx) { rx with desc := .submitted } tx) _ :=
    hissueRx.step ⟨hfaults, rfl⟩ ha (dmaStep_submit_granted .tx ha) rfl
  exact hsubmitTx.step ⟨hfaults, rfl⟩ ha (dmaStep_submit_granted .rx ha) rfl

@[simp] theorem prepOk_faults (s : State) (d : Dir) : (prepOk s d).faults = s.faults := by cases d <;> rfl

@[simp] theorem prepOk_answer (s : State) (d : Dir) : (prepOk s d).answer = s.answer := by cases d <;> rfl

/-- RX's preparation leaves what TX's one reads (R101). -/
theorem readied_tx_after_rx (s : State) (c : Chan) : readied (prepOk (setChan s .rx c) .rx) .tx = readied s .tx := rfl

/-- The callback is registered once both directions are prepared (R102). -/
theorem setCallback_prepared (s : State) (rx tx : Chan) :
    dmaStep .setCallback (prepOk (setChan (prepOk (setChan s .rx rx) .rx) .tx tx) .tx) =
      dmaTail s (.submit .rx) rx tx := by
  simp only [dmaStep, prepOk, setChan, moveTo, dmaTail]

/-- The DMA start granted throughout: both preparations, the callback, and the tail (R102). -/
theorem grantsTo_dmaStart {s : State} (h : At (dmaAt (.slaveConfig .rx)) s) (ha : s.answer = true) :
    GrantsTo 13 s (dmaArmed s (readied s .rx) (readied s .tx)) := by
  let u : State := prepOk (setChan s .rx (readied s .rx)) .rx
  let v : State := prepOk (setChan u .tx (readied s .tx)) .tx
  have htail : GrantsTo 5 v (dmaArmed s (readied s .rx) (readied s .tx)) :=
    (grantsTo_dmaTail h.1 ha _ _).step (s := v) ⟨by simpa [v, u] using h.1, rfl⟩ (by simpa [v, u] using ha)
      (setCallback_prepared ..) rfl
  have hprepTx : GrantsTo 9 u (dmaArmed s (readied s .rx) (readied s .tx)) :=
    grantsTo_dmaPrep (s := u) ⟨by simpa [u] using h.1, rfl⟩ (by simpa [u] using ha) rfl (by
      rw [readied_tx_after_rx]; exact htail)
  exact grantsTo_dmaPrep h ha rfl hprepTx

/-- Settles O31: both preparations and the tail, then the last step. -/
theorem dmaStartRuns : Obligations.DmaStartRuns := by
  refine ⟨fun s hs _ => ?_, fun s hs => exec_dma hs⟩
  exact grantsTo_dmaStart (s := { s with answer := true }) hs rfl 13 le_rfl

/-! ### Whatever the draws -/

/-- The segments reached in t are those of s, the leg's, or none (R102). -/
def TablesFrom (s t : State) : Prop :=
  ∀ d : Dir, (chan t d).segs = (chan s d).segs ∨ (chan t d).segs = segmentsOf s.params s.leg d ∨ (chan t d).segs = []

theorem setChan_tablesFrom {s : State} {d : Dir} {c : Chan}
    (h : c.segs = segmentsOf s.params s.leg d ∨ c.segs = []) (p : Phase) : TablesFrom s (moveTo p (setChan s d c)) := by
  intro e
  cases d <;> cases e
  · exact .inr h
  · exact .inl rfl
  · exact .inl rfl
  · exact .inr h

theorem DmaProgress.tablesFrom {k : DmaPos} {s t : State} (h : DmaProgress k s t) : TablesFrom s t := by
  cases h with
  | reused | allocated => exact setChan_tablesFrom (.inl rfl) _
  | freed => exact setChan_tablesFrom (.inr rfl) _
  | armed => intro d; exact .inl (by cases d <;> rfl)
  | kept hdesc => exact fun d => .inl (congrArg Prod.fst (hdesc.table d))

theorem TablesFrom.trans {s u t : State} (h : TablesFrom s u) (h' : TablesFrom u t) (hframe : DmaFrame s u) :
    TablesFrom s t := by
  have hparams : u.params = s.params := by rw [hframe.eq]; rfl
  have hleg : u.leg = s.leg := by rw [hframe.eq]; rfl
  intro d
  rcases h' d with ht | ht | ht
  · rw [ht]; exact h d
  · rw [ht, hparams, hleg]; exact .inr (.inl rfl)
  · exact .inr (.inr ht)

/-- A step to another position comes nearer to the end. -/
theorem DmaProgress.rank_lt {k j : DmaPos} {s t : State} (h : DmaProgress k s t) (hj : t.ph = dmaAt j) :
    dmaRank j < dmaRank k := by
  cases h with
  | @reused _ d | @freed _ d | @allocated _ d => cases hj; cases d <;> decide
  | armed => cases hj
  | kept hdesc =>
    rcases hdesc.next with ⟨i, hi, hlt, -⟩ | ⟨hready, -⟩
    · cases hi.symm.trans hj; exact hlt
    · cases hready.symm.trans hj

/-- A start that ends without arming the leg has failed (R102, R103). -/
theorem DmaProgress.failed {k : DmaPos} {s t : State} (h : DmaProgress k s t) (hk : k ≠ .issue .tx)
    (hready : t.ph = .ready) : t.lastRes = .dmaPrepareFailed := by
  cases h with
  | reused | freed | allocated => cases hready
  | armed => exact absurd rfl hk
  | kept hdesc =>
    rcases hdesc.next with ⟨i, hi, -⟩ | ⟨-, hres⟩
    · cases hi.symm.trans hready
    · exact hres

/-- A DMA start from s has ended in t: armed with WAIT, or failed and unwound (R102, R103). -/
structure DmaEnds (s t : State) : Prop where
  ph : t.ph = .ready
  frame : SameButDraw t (dmaWritten s t)
  outcome : (t.lastRes = .wait ∧ LegOn .dma t ∧ DmaIs t true true .issued .issued true) ∨
    (t.lastRes = .dmaPrepareFailed ∧ t.fsm = s.fsm ∧ t.legMode = s.legMode ∧ DmaQuiet t ∧ TablesFrom s t)

theorem DmaFrame.sameButDraw {s u : State} {b : Bool} (h : DmaFrame { s with answer := b } u) :
    SameButDraw u (dmaWritten s u) := (congrArg (fun w : State => { w with answer := false }) h.eq :)

/-- What ends from a later position of the start ends from an earlier one. -/
theorem DmaEnds.of_step {k : DmaPos} {b : Bool} {s u t : State}
    (hgo : DmaGoesOn (DmaStartInv k s) { s with answer := b } u) (htables : TablesFrom { s with answer := b } u)
    (h : DmaEnds u t) : DmaEnds s t := by
  refine ⟨h.ph, ?_, h.outcome.imp_right ?_⟩
  · have hframe := h.frame
    rw [hgo.frame.eq] at hframe
    exact hframe
  · rintro ⟨hres, hfsm, hmode, hquiet, hsegs⟩
    exact ⟨hres, hfsm.trans hgo.fsm, hmode.trans hgo.legMode, hquiet, htables.trans hsegs hgo.frame⟩

theorem dmaRank_pos (k : DmaPos) : 0 < dmaRank k := by
  cases k with
  | setCallback => decide
  | slaveConfig d | allocTable d | map d | prep d | unmapFailed d | submit d | issue d | unwindTerminate d
  | unwindUnmap d => cases d <;> decide

/-- Within the bound of its position a DMA start ends, whatever the draws (R102, R103). -/
theorem runsTo_dmaEnds (bs : List Bool) : ∀ {k : DmaPos} {s : State}, At (dmaAt k) s → DmaStartInv k s →
    dmaRank k ≤ bs.length → ∃ t, RunsTo bs .transferOne s t ∧ DmaEnds s t := by
  induction bs with
  | nil => intro k s _ _ hlen; exact absurd hlen (Nat.not_le.2 (dmaRank_pos k))
  | cons b bs ih =>
    intro k s h hinv hlen
    let v : State := { s with answer := b }
    let u : State := dmaStep k v
    have hexec : exec .transferOne v = .next u := exec_dma h
    have hprog := dmaStep_progress k v
    by_cases hk : k = .issue .tx
    · subst hk
      obtain ⟨hrx, htx, hrxDesc, -, hcb⟩ := hinv
      exact ⟨u, .last hexec rfl rfl, rfl, rfl, .inl ⟨rfl, ⟨rfl, rfl⟩, hrx, htx, hrxDesc, rfl, hcb⟩⟩
    · have hgo : DmaGoesOn (DmaStartInv k s) v u := (dmaStep_cases k v).resolve_right fun hc => hk hc.1
      rcases hgo.next with ⟨j, hj, hj'⟩ | ⟨hready, hquiet⟩
      · have hfaults : u.faults = [] := by rw [hgo.frame.eq]; exact h.1
        obtain ⟨t, hrest, hends⟩ := ih ⟨hfaults, hj⟩ (hj' hinv)
          (Nat.le_of_lt_succ ((hprog.rank_lt hj).trans_le hlen))
        exact ⟨t, .cons hexec hfaults (by rw [hj]; rfl) hrest rfl, hends.of_step hgo hprog.tablesFrom⟩
      · exact ⟨u, .last hexec hready rfl, hready, hgo.frame.sameButDraw,
          .inr ⟨hprog.failed hk hready, hgo.fsm, hgo.legMode, hquiet hinv, hprog.tablesFrom⟩⟩

/-- Settles O32: the run from SlaveConfig(RX), whose bound is 15. -/
theorem failedDmaStartUnwinds : Obligations.FailedDmaStartUnwinds := by
  intro s bs hs hquiet hlen
  obtain ⟨t, ⟨a, hrun⟩, hready, hframe, houtcome⟩ := runsTo_dmaEnds bs hs hquiet hlen
  have hkept {α : Type} (f : State → α) := congrArg f hframe
  exact ⟨_, hrun, hready, (hkept State.faults).trans hs.1, hkept State.ssp, hkept State.mem, hkept State.rxc,
    hkept State.txc, hkept State.leg, houtcome⟩

end Sys2Proof.Machine
end

section
/-! SUPPORT. The completion of a DMA leg (R104), step by step and with no other agent in between; and what ModeInv,
DmaInv, PendInv and Cr1Inv say at PH = Ready (R106, R110). -/

namespace Sys2Proof.Machine

/-! ### EVT_DMA_RX_DONE -/

/-- With no DMA leg active the completion is spurious (R104). -/
theorem exec_dmaDone_spurious {s : State} (h : Free s) (hleg : ¬ LegOn .dma s) :
    exec .evtDmaRxDone s = .next (raised .spuriousDmaCallback { s with ph := .evtDmaRxDone .start }) := by
  rw [exec_of_required h rfl]; exact if_neg hleg

/-- On a DMA leg whose transmit side has bytes to move the callback is consumed and the completion faults (R104). -/
theorem exec_dmaDone_early {s : State} (h : Free s) (hleg : LegOn .dma s) (hmoved : s.tx.moved < s.leg.len.toNat) :
    exec .evtDmaRxDone s =
      .next (raised .txDmaStillActive { s with pendRx := false, ph := .evtDmaRxDone .start }) := by
  rw [exec_of_required h rfl]; exact (if_pos hleg).trans (if_pos hmoved)

/-- On a DMA leg that has moved every byte the callback is consumed and the unmapping starts (R104). -/
theorem exec_dmaDone_start {s : State} (h : Free s) (hleg : LegOn .dma s) (hmoved : s.leg.len.toNat ≤ s.tx.moved) :
    exec .evtDmaRxDone s = .next { s with pendRx := false, ph := .evtDmaRxDone .unmapRx } := by
  rw [exec_of_required h rfl]; exact (if_pos hleg).trans (if_neg (Nat.not_lt.2 hmoved))

theorem exec_dmaDone_unmapRx {s : State} (h : At (.evtDmaRxDone .unmapRx) s) :
    exec .evtDmaRxDone s = .next { s with rx := { s.rx with mapped := false }, ph := .evtDmaRxDone .unmapTx } :=
  exec_of_at h rfl

/-- What the completion's last step leaves (R104). -/
def dmaDoneEnd (s : State) : State :=
  { s with
    rx := { s.rx with desc := .none }, tx := { s.tx with mapped := false, desc := .none }, cb := false
    rxc := s.leg.len, txc := s.leg.len, finCnt := s.finCnt + 1, finLog := s.msgSt :: s.finLog
    fsm := .idle, legMode := .none, ph := .ready }

theorem exec_dmaDone_unmapTx {s : State} (h : At (.evtDmaRxDone .unmapTx) s) :
    exec .evtDmaRxDone s = .next (dmaDoneEnd s) := by
  simp only [exec_of_at h rfl, resumed, dmaDoneStep, dmaDoneTail]
  exact congrArg _ (endLeg_dmaDone s)

/-- The completion with no other agent in between: the two Unmaps, and the end of the leg (R104). -/
theorem runsTo_dmaDone {s : State} (h : Free s) (hleg : LegOn .dma s) (hmoved : s.leg.len.toNat ≤ s.tx.moved)
    (b₀ b₁ b₂ : Bool) (bs : List Bool) :
    RunsTo (b₀ :: b₁ :: b₂ :: bs) .evtDmaRxDone s
      (dmaDoneEnd { s with pendRx := false, rx := { s.rx with mapped := false } }) :=
  .cons (exec_dmaDone_start (s := { s with answer := b₀ }) h hleg hmoved) h.1 rfl
    (.cons (exec_dmaDone_unmapRx ⟨h.1, rfl⟩) h.1 rfl (.last (exec_dmaDone_unmapTx ⟨h.1, rfl⟩) rfl rfl) rfl) rfl

/-- Settles O37: the two faults, the run, and its last step. -/
theorem dmaDoneRuns : Obligations.DmaDoneRuns := by
  refine fun s => ⟨exec_dmaDone_spurious, exec_dmaDone_early, fun bs hs hleg hmoved hlen => ?_, exec_dmaDone_unmapTx⟩
  match bs, hlen with
  | b₀ :: b₁ :: b₂ :: bs, _ => exact runsTo_dmaDone hs hleg hmoved b₀ b₁ b₂ bs

/-! ### PH = Ready -/

theorem ModeInv.ready {s : State} (h : ModeInv s) (hp : s.ph = .ready) : ReadyModes s := by
  simp only [ModeInv, hp] at h; exact h.2

/-- At PH = Ready a leg's mode names its path (R45(e)). -/
theorem ReadyModes.legOn {s : State} {m : LegMode} (h : ReadyModes s) (hm : s.legMode = m) (hne : m ≠ .none) :
    LegOn m s := by
  subst hm
  rcases h with ⟨-, hmode⟩ | ⟨hfsm, -⟩ | ⟨hfsm, -⟩
  · exact absurd hmode hne
  · exact ⟨hfsm, rfl⟩
  · exact ⟨hfsm, rfl⟩

/-- With its three enables clear the SSP asserts no interrupt (R118). -/
theorem irqLine_of_masked {q : Params} {p : Ssp} (h : p.cr1 &&& irqEnMask = 0) : irqLine q p = false := by
  have hbit (i : Nat) (hi : irqEnMask.getLsbD i = true) : p.cr1.getLsbD i = false := by
    have := congrArg (BitVec.getLsbD · i) h
    simpa [hi] using this
  simp only [irqLine, hbit 0 rfl, hbit 1 rfl, hbit 2 rfl, Bool.and_false, Bool.or_false]

/-- The interrupt is enabled on a PIO leg alone (R95, R110). -/
theorem Cr1Inv.legMode_of_evtIrq {s : State} (h : Cr1Inv s) (he : eventEnabled s .evtIrq = true) :
    s.legMode = .pio := by
  simp only [eventEnabled, Bool.and_eq_true, beq_iff_eq] at he
  obtain ⟨hlife, hline⟩ := he
  by_contra hmode
  rw [irqLine_of_masked (h.1 hlife hmode)] at hline
  cases hline

/-- At PH = Ready the callback is pending on a DMA leg alone (R106, R124). -/
theorem PendInv.legMode_of_pendRx {s : State} (h : PendInv s) (hd : DmaInv s) (hp : s.ph = .ready)
    (he : s.pendRx = true) : s.legMode = .dma := by
  by_contra hmode
  obtain ⟨-, -, hdesc, -⟩ := ((dmaInv_iff_settled (by rw [hp]; rfl)).1 hd).2 hmode
  rw [(h.1 he).1] at hdesc
  cases hdesc

/-- Settles O58: an enabled event fixes LEGMODE, and so the leg; without a leg there is none. -/
theorem idleBlockIsQuiet : Obligations.IdleBlockIsQuiet := by
  intro s hm hd hpend hcr1 hp
  have hirq (he : eventEnabled s .evtIrq = true) : LegOn .pio s :=
    (hm.ready hp).legOn (hcr1.legMode_of_evtIrq he) (by decide)
  have hdone (he : eventEnabled s .evtDmaRxDone = true) : LegOn .dma s :=
    (hm.ready hp).legOn (hpend.legMode_of_pendRx hd hp he) (by decide)
  refine ⟨fun hidle => ⟨?_, fun i => ?_⟩, hirq, hdone⟩
  · exact ((dmaInv_iff_settled (by rw [hp]; rfl)).1 hd).quiet (hm.noLeg_of_ready hp hidle).2
  · have hnone {m : LegMode} (hleg : LegOn m s) : False := by cases hidle.symm.trans hleg.1
    cases i with
    | evtIrq => exact Bool.eq_false_iff.2 fun he => hnone (hirq he)
    | evtDmaRxDone => exact Bool.eq_false_iff.2 fun he => hnone (hdone he)
    | _ => rfl

end Sys2Proof.Machine
end

section
/-! SUPPORT. What a step of BLOCK can do to FSM and to the Finalize notifications (R107, R110, R112): keep FSM or move it
with no notification, or end a leg with exactly one. -/

namespace Sys2Proof.Machine

/-- No Finalize is sent (R15, R31). -/
def NoFinalize (s t : State) : Prop := t.finCnt = s.finCnt ∧ t.finLog = s.finLog

/-- A leg is armed: by the PIO arm, or by the last step of a DMA start (R95, R102). -/
def LegArmed (s t : State) : Prop :=
  s.fsm = .idle ∧ t.fsm = .transferActive ∧
    ((∃ d, s.ph = .transferOne (.writeCr0 d) ∧ t.legMode = .pio) ∨
      (s.ph = dmaAt (.issue .tx) ∧ t.legMode = .dma ∧ t.lastRes = .wait))

/-- The overrun branch aborts the leg (R109). -/
def LegAborted (s t : State) : Prop :=
  s.fsm = .transferActive ∧ t.fsm = .aborting ∧ s.ph = .evtIrq .writeIcr ∧ t.msgSt = .ioError

/-- An engine of EVT_IRQ has received the whole length (R108). -/
def LegReceived (s t : State) : Prop :=
  s.fsm = .transferActive ∧ t.fsm = .done ∧ (s.ph = .evtIrq (.engine .sr) ∨ s.ph = .evtIrq (.engine .push)) ∧
    t.rxc = t.leg.len

/-- A leg ends, at the last step of the DMA completion or of Finish, with one Finalize carrying MSGST (R104, R110). -/
def LegEnded (s t : State) : Prop :=
  t.fsm = .idle ∧ t.ph = .ready ∧ t.finCnt = s.finCnt + 1 ∧ t.finLog = s.msgSt :: s.finLog ∧
    ((s.fsm = .transferActive ∧ s.ph = .evtDmaRxDone .unmapTx ∧ t.rxc = t.leg.len) ∨
      ((s.fsm = .aborting ∨ s.fsm = .done) ∧ ∃ v, s.ph = .evtIrq (.cr1 (.write v))))

/-- FSM is kept, or moves without ending a leg (R107). -/
def LegGoesOn (s t : State) : Prop := t.fsm = s.fsm ∨ LegArmed s t ∨ LegAborted s t ∨ LegReceived s t

/-- A step sends no Finalize and ends no leg, or ends one (R107, R112). -/
def FsmStep (s t : State) : Prop := (NoFinalize s t ∧ LegGoesOn s t) ∨ LegEnded s t

theorem FsmStep.kept {s t : State} (h : NoFinalize s t) (hf : t.fsm = s.fsm) : FsmStep s t := .inl ⟨h, .inl hf⟩

/-- No command sends a Finalize (R15). -/
theorem BlockStep.noFinalize {i : Instr} {s t : State} (h : BlockStep i s t) (hi : isEvent i = false) :
    NoFinalize s t := by
  unfold NoFinalize
  rw [h.instrFrame.eq]
  cases i with
  | evtIrq | evtDmaRxDone => cases hi
  | _ => exact ⟨rfl, rfl⟩

/-- ATTACH runs with FSM idle, and leaves it so (R81). -/
theorem BlockStep.fsm_attach {s t : State} (hm : ModeInv s) (h : BlockStep .attach s t) : t.fsm = s.fsm := by
  cases h with
  | badState | attachStart => rfl
  | attachFirst hp | attachRx hp =>
    obtain ⟨hn, -⟩ := hm.attach hp
    split
    · rfl
    · refine (attachRelease_noLeg ?_).1.trans hn.1.symm
      exact hn
  | attachTx hp =>
    obtain ⟨hn, -⟩ := hm.attach hp
    split
    · exact hn.1.symm
    · exact (attachRelease_noLeg hn).1.trans hn.1.symm
  | attachReleased hp => exact (hm.attach hp).1.1.symm
  | engineDrain hi | engineFill hi | enginePop hi | enginePopFault hi | enginePush hi | enginePushFault hi => cases hi

/-- The fill loop's test moves FSM only in EVT_IRQ, to Done, once the whole length is received (R90, R108). -/
theorem engineFilled_fsmStep {i : Instr} {k : EnginePos} {s u : State} (hm : ModeInv s) (hi : runsEngine i = true)
    (hp : s.ph = engineAt i k) (hk : k = .sr ∨ k = .push) (hquiet : NoFinalize s u) (hfsm : u.fsm = s.fsm) :
    FsmStep s (engineFilled i u) := by
  have hactive := (hm.engine hi hp).1
  rcases engineFilled_cases hi u with ⟨-, h⟩ | ⟨-, h⟩ | ⟨rfl, hlen, h⟩ | ⟨-, h⟩ <;> rw [h]
  · exact .kept hquiet hfsm
  · exact .kept hquiet hfsm
  · refine .inl ⟨hquiet, .inr (.inr (.inr ⟨hactive, rfl, ?_, hlen⟩))⟩
    rcases hk with rfl | rfl
    · exact .inl hp
    · exact .inr hp
  · exact .kept hquiet hfsm

/-- A pop keeps FSM (R92). -/
theorem enginePop_fsmStep {s t : State} (hq : pop s = .ok t) (p : Phase) : FsmStep s (moveTo p t) := by
  obtain ⟨u, q, m, r, -, -, -, rfl, -⟩ := pop_ok hq
  exact .kept ⟨rfl, rfl⟩ rfl

/-- After a push FSM moves as the fill loop's test says (R93). -/
theorem enginePush_fsmStep {i : Instr} {s t : State} (hm : ModeInv s) (hi : runsEngine i = true)
    (hp : s.ph = engineAt i .push) (hq : push s = .ok t) : FsmStep s (engineFilled i t) := by
  obtain ⟨v, n, -, rfl⟩ := push_ok hq
  exact engineFilled_fsmStep hm hi hp (.inr rfl) ⟨rfl, rfl⟩ rfl

/-- TRANSFER_ONE moves FSM only where it arms a leg (R87, R95, R102). -/
theorem BlockStep.fsmStep_transferOne {s t : State} (hm : ModeInv s) (h : BlockStep .transferOne s t) :
    FsmStep s t := by
  have hquiet := h.noFinalize rfl
  cases h with
  | transferCr0 hp =>
    have hidle := (hm.transfer hp (by simp)).1.1
    rcases transferPathState_cases _ with he | he <;> rw [he] at hquiet ⊢
    · exact .kept hquiet rfl
    · exact .inl ⟨hquiet, .inr (.inl ⟨hidle, rfl, .inl ⟨_, hp, rfl⟩⟩)⟩
  | @transferDma _ k hp =>
    rcases dmaStep_cases k s with hgo | ⟨rfl, he⟩
    · exact .kept hquiet hgo.fsm
    · rw [he] at hquiet ⊢
      exact .inl ⟨hquiet, .inr (.inl ⟨(hm.transfer hp (by simp)).1.1, rfl, .inr ⟨hp, rfl, rfl⟩⟩)⟩
  | engineFill hi hp => exact engineFilled_fsmStep hm hi hp (.inl rfl) ⟨rfl, rfl⟩ rfl
  | enginePop _ _ hq => exact enginePop_fsmStep hq _
  | enginePush hi hp hq => exact enginePush_fsmStep hm hi hp hq
  | badState | transferUnwritten | transferMalformed | transferNoRate | transferLatch | transferCpsr | transferCr1Read
  | transferCr1Write | engineDrain | enginePopFault | enginePushFault => exact .kept hquiet rfl

/-- EVT_IRQ aborts a leg, finds it received, or ends it at the CR1 write of Finish (R108 to R110). -/
theorem BlockStep.fsmStep_evtIrq {s t : State} (hm : ModeInv s) (h : BlockStep .evtIrq s t) : FsmStep s t := by
  cases h with
  | engineFill hi hp => exact engineFilled_fsmStep hm hi hp (.inl rfl) ⟨rfl, rfl⟩ rfl
  | enginePop _ _ hq => exact enginePop_fsmStep hq _
  | enginePush hi hp hq => exact enginePush_fsmStep hm hi hp hq
  | irqIcr hp =>
    have hleg : LegOn .pio s := by simp only [ModeInv, hp] at hm; exact hm.2
    exact .inl ⟨⟨rfl, rfl⟩, .inr (.inr (.inl ⟨hleg.1, rfl, hp, rfl⟩))⟩
  | irqCr1Write hp =>
    have hfsm : s.fsm = .aborting ∨ s.fsm = .done := by simp only [ModeInv, hp] at hm; exact hm.2.1
    exact .inr ⟨rfl, rfl, rfl, rfl, .inr ⟨hfsm, _, hp⟩⟩
  | badState | engineDrain | enginePopFault | enginePushFault | irqStart | irqSpurious | irqOverrun | irqEngine
  | irqCr1Read => exact .kept ⟨rfl, rfl⟩ rfl

/-- EVT_DMA_RX_DONE ends a leg at its last step (R104). -/
theorem BlockStep.fsmStep_evtDmaRxDone {s t : State} (hm : ModeInv s) (h : BlockStep .evtDmaRxDone s t) :
    FsmStep s t := by
  cases h with
  | dmaDoneUnmapTx hp =>
    have hleg : LegOn .dma s := by simp only [ModeInv, hp] at hm; exact hm.2
    rw [endLeg_dmaDone]
    exact .inr ⟨rfl, rfl, rfl, rfl, .inl ⟨hleg.1, hp, rfl⟩⟩
  | badState | dmaDoneStart | dmaDoneEarly | dmaDoneSpurious | dmaDoneUnmapRx => exact .kept ⟨rfl, rfl⟩ rfl
  | engineDrain hi | engineFill hi | enginePop hi | enginePopFault hi | enginePush hi | enginePushFault hi => cases hi

/-- What a step of an instruction can do to FSM and to the notifications. -/
theorem BlockStep.fsmStep {i : Instr} {s t : State} (hm : ModeInv s) (h : BlockStep i s t) : FsmStep s t := by
  cases i with
  | attach => exact .kept (h.noFinalize rfl) (h.fsm_attach hm)
  | detach | prepareHw | unprepareHw | prepareMsg | calcDivisors =>
    exact .kept (h.noFinalize rfl) (congrArg State.fsm h.instrFrame.eq :)
  | transferOne => exact h.fsmStep_transferOne hm
  | evtIrq => exact h.fsmStep_evtIrq hm
  | evtDmaRxDone => exact h.fsmStep_evtDmaRxDone hm

/-- What a step of the machine can do to FSM and to the notifications: another agent writes neither (R9). -/
theorem step_fsmStep {s t : State} (hm : ModeInv s) (h : step s = .next t) : FsmStep s t := by
  rcases step_block_or_other h with ⟨i, l, n, b, -, -, hb⟩ | ho
  · have hmoves := BlockStep.fsmStep (s := { s with agenda := l, tick := n, answer := b }) hm hb
    exact hmoves
  · rw [ho.frame]
    exact .kept ⟨rfl, rfl⟩ rfl

/-- Settles O52: a move of FSM is arming, aborting or receiving a leg, or the end of one. -/
theorem fsmMovesOnlyAsListed : Obligations.FsmMovesOnlyAsListed := by
  intro s t hm h hne
  rcases step_fsmStep hm h with ⟨-, hkept | harmed | haborted | hreceived⟩ | ⟨hidle, -, -, -, hdma | hfinish⟩
  · exact absurd hkept hne
  · exact .inl harmed
  · exact .inr (.inl haborted)
  · exact .inr (.inr (.inl hreceived))
  · obtain ⟨hfsm, hph, hlen⟩ := hdma
    exact .inr (.inr (.inr (.inl ⟨hfsm, hidle, hph, hlen⟩)))
  · obtain ⟨hfsm, hph⟩ := hfinish
    exact .inr (.inr (.inr (.inr ⟨hfsm, hidle, hph⟩)))

/-- Only the end of a leg takes FSM to Idle (R107). -/
theorem LegGoesOn.fsm_ne_idle {s t : State} (h : LegGoesOn s t) (hne : s.fsm ≠ .idle) : t.fsm ≠ .idle := by
  rcases h with hkept | ⟨-, hfsm, -⟩ | ⟨-, hfsm, -⟩ | ⟨-, hfsm, -⟩
  · rwa [hkept]
  all_goals rw [hfsm]; decide

/-- A leg that ends was active. -/
theorem LegEnded.fsm_ne_idle {s t : State} (h : LegEnded s t) : s.fsm ≠ .idle := by
  obtain ⟨-, -, -, -, ⟨hfsm, -⟩ | ⟨hfsm | hfsm, -⟩⟩ := h <;> rw [hfsm] <;> decide

/-- Settles O57: a step that ends no leg sends no Finalize, and does not take FSM to Idle. -/
theorem finalizeOncePerLeg : Obligations.FinalizeOncePerLeg := by
  intro s t hm h
  rcases step_fsmStep hm h with ⟨hquiet, hmove⟩ | hend
  · exact ⟨fun hne hidle => absurd hidle (hmove.fsm_ne_idle hne), fun _ => hquiet⟩
  · have hne := hend.fsm_ne_idle
    obtain ⟨hidle, hready, hcnt, hlog, -⟩ := hend
    exact ⟨fun _ _ => ⟨hcnt, hlog, hready⟩, fun hno => absurd ⟨hne, hidle⟩ hno⟩

end Sys2Proof.Machine
end

section
/-! SUPPORT. EVT_IRQ step by step outside its engine (R108 to R110), and the overrun branch with no other agent in between
(R109, R111). -/

namespace Sys2Proof.Machine

/-- With a PIO leg active EVT_IRQ goes to its IIR read (R108). -/
theorem exec_irq_start {s : State} (h : Free s) (hleg : LegOn .pio s) :
    exec .evtIrq s = .next { s with ph := .evtIrq .readIir } := by
  rw [exec_of_required h rfl]; exact if_pos hleg

/-- With no PIO leg active the interrupt is spurious (R108). -/
theorem exec_irq_spurious {s : State} (h : Free s) (hleg : ¬ LegOn .pio s) :
    exec .evtIrq s = .next (raised .spuriousInterrupt { s with ph := .evtIrq .start }) := by
  rw [exec_of_required h rfl]; exact if_neg hleg

/-- The IIR read tests RORIS alone (R108). -/
theorem exec_irq_readIir {s : State} (h : At (.evtIrq .readIir) s) :
    exec .evtIrq s =
      if s.ssp.roris && s.ssp.cr1.getLsbD 2 then .next { s with ph := .evtIrq .writeIcr }
      else .next { s with ph := .evtIrq (.engine .sr) } := by
  simp only [exec_of_at h rfl, resumed, irqStep, ioRead32_iir, bindOut_ok, iirValue_roris]
  rfl

/-- RORIS read as 1 leads to the ICR write, with no FIFO access (R108, R109). -/
theorem exec_irq_overrun {s : State} (h : At (.evtIrq .readIir) s) (hroris : s.ssp.roris = true)
    (henabled : s.ssp.cr1.getLsbD 2 = true) : exec .evtIrq s = .next { s with ph := .evtIrq .writeIcr } :=
  (exec_irq_readIir h).trans (if_pos (Bool.and_eq_true_iff.2 ⟨hroris, henabled⟩))

/-- RORIS read as 0 leads to the engine (R108). -/
theorem exec_irq_engine {s : State} (h : At (.evtIrq .readIir) s)
    (hclear : s.ssp.roris = false ∨ s.ssp.cr1.getLsbD 2 = false) :
    exec .evtIrq s = .next { s with ph := .evtIrq (.engine .sr) } :=
  (exec_irq_readIir h).trans (if_neg (Bool.eq_false_iff.1 (Bool.and_eq_false_iff.2 hclear)))

/-- The ICR write clears RORIS_RAW, and the leg is aborted with IoError (R109). -/
theorem exec_irq_writeIcr {s : State} (h : At (.evtIrq .writeIcr) s) :
    exec .evtIrq s =
      .next { s with
        ssp := { s.ssp with roris := false }, msgSt := .ioError, fsm := .aborting, ph := .evtIrq (.cr1 .read) } :=
  exec_of_at h rfl

theorem exec_irq_cr1Read {s : State} (h : At (.evtIrq (.cr1 .read)) s) :
    exec .evtIrq s = .next { s with ph := .evtIrq (.cr1 (.write s.ssp.cr1)) } :=
  exec_of_at h rfl

/-- Finish clears the three enables, sends one Finalize with MSGST, and returns to Idle with no leg (R110). -/
theorem exec_irq_cr1Write {s : State} {v : Word} (h : At (.evtIrq (.cr1 (.write v))) s) :
    exec .evtIrq s =
      .next { s with
        ssp := { s.ssp with cr1 := v &&& 0xFFFFFFF8 }
        finCnt := s.finCnt + 1
        finLog := s.msgSt :: s.finLog
        fsm := .idle
        legMode := .none
        ph := .ready } :=
  exec_of_at h rfl

/-- Settles O35: the check at the start, the IIR read's two outcomes, the overrun branch, and Finish. -/
theorem irqSteps : Obligations.IrqSteps := fun _ =>
  ⟨exec_irq_start, exec_irq_spurious, exec_irq_overrun, exec_irq_engine, exec_irq_writeIcr, exec_irq_cr1Read,
    fun _ => exec_irq_cr1Write⟩

/-- What an interrupt that reads RORIS = 1 leaves (R111). -/
def overrunEnd (s : State) : State :=
  { s with
    ssp := { s.ssp with roris := false, cr1 := s.ssp.cr1 &&& 0xFFFFFFF8 }, msgSt := .ioError
    finCnt := s.finCnt + 1, finLog := .ioError :: s.finLog, fsm := .idle, legMode := .none, ph := .ready }

/-- The overrun branch with no other agent in between: the IIR read, the ICR write, and Finish (R109, R110). -/
theorem runsTo_overrun {s : State} (h : Free s) (hleg : LegOn .pio s) (hroris : s.ssp.roris = true)
    (henabled : s.ssp.cr1.getLsbD 2 = true) (b₀ b₁ b₂ b₃ b₄ : Bool) (bs : List Bool) :
    RunsTo (b₀ :: b₁ :: b₂ :: b₃ :: b₄ :: bs) .evtIrq s (overrunEnd s) :=
  .cons (exec_irq_start (s := { s with answer := b₀ }) h hleg) h.1 rfl
    (.cons (exec_irq_overrun ⟨h.1, rfl⟩ hroris henabled) h.1 rfl
      (.cons (exec_irq_writeIcr ⟨h.1, rfl⟩) h.1 rfl
        (.cons (exec_irq_cr1Read ⟨h.1, rfl⟩) h.1 rfl
          (.last (exec_irq_cr1Write ⟨h.1, rfl⟩) rfl rfl) rfl) rfl) rfl) rfl

/-- Settles O36: the five steps of the overrun branch. -/
theorem overrunFailsTheMessage : Obligations.OverrunFailsTheMessage := by
  intro s bs hs hleg hroris henabled hlen
  match bs, hlen with
  | b₀ :: b₁ :: b₂ :: b₃ :: b₄ :: bs, _ => exact runsTo_overrun hs hleg hroris henabled b₀ b₁ b₂ b₃ b₄ bs

end Sys2Proof.Machine
end

section
/-! SUPPORT. The SSP shifter (R123) and the DMA channels (R124): a move per agent as an equation, and where it has none. -/

namespace Sys2Proof.Machine

/-! ### The shifter -/

/-- With SSE = 0 or nothing to send, nothing shifts (R123). -/
theorem sspShift_idle {p : Ssp} (v : FifoUnit) (h : p.cr1.getLsbD 4 = false ∨ p.txq = []) : sspShift v p = p := by
  rcases sspShift_cases v p with heq | ⟨u, q, hq, hsse, -⟩
  · exact heq
  · rcases h with h | h
    · cases hsse.symm.trans h
    · cases hq.symm.trans h

/-- A shift takes the head of TXQ, and keeps the received unit where RXQ has room (R123). -/
theorem sspShift_moves {p : Ssp} {u : FifoUnit} {q : List FifoUnit} (v : FifoUnit) (hsse : p.cr1.getLsbD 4 = true)
    (hq : p.txq = u :: q) :
    sspShift v p =
      if p.rxq.length < fifoDepth then { p with txq := q, rxq := p.rxq ++ [cutReceived p v] }
      else { p with txq := q, roris := true } := by
  rw [sspShift, hq]
  exact if_pos hsse

/-- The width of a unit, DSS + 1, is at most a FIFO entry's (R36, R42). -/
theorem two_pow_dss_le (p : Ssp) : 2 ^ (dssOf p + 1) ≤ 2 ^ 16 :=
  Nat.pow_le_pow_right (by decide) (p.cr0.setWidth 4).isLt

/-- A received unit is the drawn value cut to the unit's width (R123). -/
theorem cutReceived_toNat (p : Ssp) (v : FifoUnit) : (cutReceived p v).toNat = v.toNat % 2 ^ (dssOf p + 1) := by
  rw [cutReceived, BitVec.toNat_ofNat, Nat.mod_eq_of_lt]
  exact (Nat.mod_lt _ (Nat.two_pow_pos _)).trans_le (two_pow_dss_le p)

/-- The received units are the values of the unit's width (R123). -/
theorem exists_cutReceived_iff (p : Ssp) (x : Nat) :
    (∃ v : FifoUnit, (cutReceived p v).toNat = x) ↔ x < 2 ^ (dssOf p + 1) := by
  constructor
  · rintro ⟨v, rfl⟩
    rw [cutReceived_toNat]
    exact Nat.mod_lt _ (Nat.two_pow_pos _)
  · intro hx
    refine ⟨BitVec.ofNat 16 x, ?_⟩
    rw [cutReceived_toNat, BitVec.toNat_ofNat, Nat.mod_eq_of_lt (hx.trans_le (two_pow_dss_le p)), Nat.mod_eq_of_lt hx]

/-- Settles O38: the shift where it is enabled and where it is not, and the range of the received unit. -/
theorem shiftMovesOneUnit : Obligations.ShiftMovesOneUnit := by
  intro s
  refine ⟨fun v h => ?_, fun v u q hsse hq => ?_, fun x => ?_⟩
  · rw [perform, sspShift_idle v h]; rfl
  · rw [perform, sspShift_moves v hsse hq]; rfl
  · rw [exists_cutReceived_iff, dssOf, BitVec.toNat_setWidth]

/-! ### The segment of a byte -/

/-- A byte within the table's total lies in one of its segments (R124). -/
theorem exists_segAt_of_lt_segTotal : ∀ {gs : List Seg} {n : Nat}, n < segTotal gs →
    ∃ g off, segAt gs n = some (g, off) ∧ g ∈ gs ∧ off < g.length
  | [], _, h => absurd h (Nat.not_lt_zero _)
  | g :: gs, n, h => by
    rw [segTotal] at h
    by_cases hn : n < g.length
    · exact ⟨g, n, if_pos hn, List.mem_cons_self, hn⟩
    · obtain ⟨g', off, hat, hmem, hoff⟩ := exists_segAt_of_lt_segTotal (gs := gs) (n := n - g.length) (by omega)
      exact ⟨g', off, (if_neg hn).trans hat, List.mem_cons_of_mem g hmem, hoff⟩

/-! ### DMA_TX -/

/-- DMA_TX may move: issued, not done, and TXQ has room (R124). -/
def TxReady (s : State) : Prop :=
  s.tx.desc = .issued ∧ s.tx.moved < segTotal s.tx.segs ∧ s.ssp.txq.length < fifoDepth

/-- What a DMA_TX move of unit v leaves, the draw counter at n (R124). -/
def txMoved (s : State) (v : FifoUnit) (n : Nat) : State :=
  { s with
    ssp := { s.ssp with txq := s.ssp.txq ++ [v] }, tx := { s.tx with moved := s.tx.moved + legUnit s.leg }, draws := n }

theorem dmaTxStep_of_not_ready {s : State} (h : ¬ TxReady s) : dmaTxStep s = s := if_neg h

theorem dmaTxStep_scratch {s : State} {g : Seg} {off : Nat} (h : TxReady s)
    (hat : segAt s.tx.segs s.tx.moved = some (g, off)) (hk : g.kind = .scratch) :
    dmaTxStep s = txMoved s 0 s.draws := by
  obtain ⟨hdesc, hmoved, hroom⟩ := h
  rw [dmaTxStep, if_pos ⟨hdesc, hmoved, hroom⟩, hat]
  simp [hk, txMoved]

theorem dmaTxStep_buf {s : State} {g : Seg} {off n : Nat} {v : FifoUnit} (h : TxReady s)
    (hat : segAt s.tx.segs s.tx.moved = some (g, off)) (hk : g.kind = .buf)
    (hread : memRead s (g.addr + off) (legUnit s.leg) = some (v, { s with draws := n })) :
    dmaTxStep s = txMoved s v n := by
  obtain ⟨hdesc, hmoved, hroom⟩ := h
  rw [dmaTxStep, if_pos ⟨hdesc, hmoved, hroom⟩, hat]
  simp [hk, hread, txMoved]

theorem dmaTxStep_refused {s : State} {g : Seg} {off : Nat} (hat : segAt s.tx.segs s.tx.moved = some (g, off))
    (hk : g.kind = .buf) (hread : memRead s (g.addr + off) (legUnit s.leg) = none) : dmaTxStep s = s := by
  rw [dmaTxStep, hat]
  simp [hk, hread]

/-- Settles O39: the unit is read by `memRead_admitted`. -/
theorem dmaTxMovesOneUnit : Obligations.DmaTxMovesOneUnit := by
  intro s
  refine ⟨fun h => ?_, fun g off hdesc hmoved hroom hat => ⟨fun hk => ?_, fun hk hadm => ?_, fun hk hadm => ?_⟩,
    exists_segAt_of_lt_segTotal⟩
  · rw [perform, dmaTxStep_of_not_ready h]
  · rw [perform, dmaTxStep_scratch ⟨hdesc, hmoved, hroom⟩ hat hk]; rfl
  · obtain ⟨v, n, hread, hlo, hhi, hone, -⟩ := memRead_admitted (legUnit_cases s.leg) hadm
    exact ⟨v, n, by rw [perform, dmaTxStep_buf ⟨hdesc, hmoved, hroom⟩ hat hk hread]; rfl, hlo, hhi, hone⟩
  · rw [perform, dmaTxStep_refused hat hk (memRead_refused (legUnit_cases s.leg) hadm)]

/-! ### DMA_RX -/

/-- DMA_RX may move: issued, not done, and RXQ holds a unit (R124). -/
def RxReady (s : State) : Prop := s.rx.desc = .issued ∧ s.rx.moved < segTotal s.rx.segs ∧ s.ssp.rxq ≠ []

/-- What a DMA_RX move leaves: RXQ's tail, and memory m with the unsettled addresses r (R124). -/
def rxMoved (s : State) (q : List FifoUnit) (m : List Host.Cell) (r : List Nat) : State :=
  { s with
    ssp := { s.ssp with rxq := q }
    rx := { s.rx with moved := s.rx.moved + legUnit s.leg }
    pendRx := s.pendRx || (decide (s.rx.moved + legUnit s.leg = segTotal s.rx.segs) && s.cb)
    mem := m
    unsettled := r }

theorem dmaRxStep_of_not_ready {s : State} (h : ¬ RxReady s) : dmaRxStep s = s := by
  rcases dmaRxStep_cases s with heq | ⟨hdesc, hmoved, u, q, -, -, hq, -⟩
  · exact heq
  · exact absurd ⟨hdesc, hmoved, by rw [hq]; exact List.cons_ne_nil u q⟩ h

theorem dmaRxStep_scratch {s : State} {g : Seg} {off : Nat} {u : FifoUnit} {q : List FifoUnit} (h : RxReady s)
    (hq : s.ssp.rxq = u :: q) (hat : segAt s.rx.segs s.rx.moved = some (g, off)) (hk : g.kind = .scratch) :
    dmaRxStep s = rxMoved s q s.mem s.unsettled := by
  obtain ⟨hdesc, hmoved, -⟩ := h
  rw [dmaRxStep, if_pos ⟨hdesc, hmoved⟩, hq, hat]
  simp [hk, rxMoved]

theorem dmaRxStep_buf {s : State} {g : Seg} {off : Nat} {u : FifoUnit} {q : List FifoUnit} {m : List Host.Cell}
    {r : List Nat} (h : RxReady s) (hq : s.ssp.rxq = u :: q) (hat : segAt s.rx.segs s.rx.moved = some (g, off))
    (hk : g.kind = .buf)
    (hwrite : memWrite s (g.addr + off) (legUnit s.leg) u = some { s with mem := m, unsettled := r }) :
    dmaRxStep s = rxMoved s q m r := by
  obtain ⟨hdesc, hmoved, -⟩ := h
  rw [dmaRxStep, if_pos ⟨hdesc, hmoved⟩, hq, hat]
  simp [hk, hwrite, rxMoved]

theorem dmaRxStep_refused {s : State} {g : Seg} {off : Nat} {u : FifoUnit} {q : List FifoUnit}
    (hq : s.ssp.rxq = u :: q) (hat : segAt s.rx.segs s.rx.moved = some (g, off)) (hk : g.kind = .buf)
    (hwrite : memWrite s (g.addr + off) (legUnit s.leg) u = none) : dmaRxStep s = s := by
  rw [dmaRxStep, hq, hat]
  simp [hk, hwrite]

/-- Settles O40: the unit is stored by `memWrite_admitted`. -/
theorem dmaRxMovesOneUnit : Obligations.DmaRxMovesOneUnit := by
  intro s
  refine ⟨fun h => ?_, fun g off u q hdesc hmoved hq hat => ?_⟩
  · rw [perform, dmaRxStep_of_not_ready h]
  · have hready : RxReady s := ⟨hdesc, hmoved, by rw [hq]; exact List.cons_ne_nil u q⟩
    refine ⟨fun hk => ?_, fun hk hmem hadm => ?_, fun hk hadm => ?_⟩
    · rw [perform, dmaRxStep_scratch hready hq hat hk]; rfl
    · obtain ⟨m, r, hwrite, -, hsub, hunit, hkept⟩ := memWrite_admitted (legUnit_cases s.leg) hadm u hmem
      obtain ⟨hlo, hhi⟩ := holdsUnits_singleton.1 hunit
      rw [List.length_singleton, Nat.one_mul] at hkept
      exact ⟨m, r, by rw [perform, dmaRxStep_buf hready hq hat hk hwrite]; rfl, hsub, hlo, hhi, hkept⟩
    · rw [perform, dmaRxStep_refused hq hat hk (memWrite_refused (legUnit_cases s.leg) hadm u)]

end Sys2Proof.Machine
end

section
/-! SUPPORT. When an input is taken (R71, R119, R120), and what a recorded fault leaves with a step (R115): BLOCK, the
events and HOST's writes have none, and no other agent's step depends on the fault. -/

namespace Sys2Proof.Machine

/-! ### The conditions of the inputs -/

/-- HOST's writes and the events have a step only where BLOCK may start (R71, R119). -/
theorem ready_and_not_stopped_iff {s : State} : (s.ph == .ready && !stopped s) = true ↔ Free s := by
  rw [Bool.and_eq_true, beq_iff_eq, Bool.not_eq_true', Bool.eq_false_iff, ne_eq, stopped_iff, not_not, and_comm, Free]

/-- At PH = Busy or after a fault a HOST write of any offset has no step (R71, R115). -/
theorem hostWrite_of_not_free {s : State} (h : ¬ Free s) (off : Nat) (v : Word) : hostWrite off v s = .next s :=
  if_neg (mt ready_and_not_stopped_iff.1 h)

/-- An event is taken when BLOCK may start and the event is enabled (R119). -/
theorem eventStep_taken {s : State} {e : Byte} {i : Instr} (hd : decodeEvt e = .ok i) (h : Free s)
    (he : eventEnabled s i = true) : eventStep e s = exec i s := by
  unfold eventStep
  rw [hd]
  exact if_pos (Bool.and_eq_true_iff.2 ⟨h.ready_and_not_stopped, he⟩)

/-- An event that is not taken is no step (R119, R120). -/
theorem eventStep_not_taken {s : State} {e : Byte} {i : Instr} (hd : decodeEvt e = .ok i)
    (h : ¬ (Free s ∧ eventEnabled s i = true)) : eventStep e s = .next s := by
  unfold eventStep
  rw [hd]
  exact if_neg fun hopen => h ((Bool.and_eq_true_iff.1 hopen).imp_left ready_and_not_stopped_iff.1)

/-- At PH = Ready BLOCK has no step of its own (R119). -/
theorem blockStep_ready {s : State} (h : s.ph = .ready) : blockStep s = .next s := by
  rw [blockStep, h]; rfl

/-- A BLOCK action goes on with the instruction in execution (R120). -/
theorem blockStep_busy {s : State} {i : Instr} (h : phaseOp s.ph = some i) : blockStep s = settle s (exec i s) := by
  rw [blockStep, h]

/-- After a fault BLOCK has no step at any PH (R115). -/
theorem blockStep_stopped {s : State} (h : s.faults ≠ []) : blockStep s = .next s := by
  cases hp : phaseOp s.ph with
  | none => rw [blockStep, hp]
  | some i => rw [blockStep_busy hp, exec_stopped i h]; rfl

/-- Settles O5: each input by its condition, and `exec_busy` for an instruction offered to a busy BLOCK. -/
theorem inputsWaitForTheirCondition : Obligations.InputsWaitForTheirCondition := by
  intro s
  refine ⟨?_, Iff.rfl, fun h off v => hostWrite_of_not_free h off v,
    fun h e i hd => eventStep_not_taken hd fun hopen => h hopen.1,
    fun e i hd he => eventStep_not_taken hd fun hopen => Bool.false_ne_true (he.symm.trans hopen.2),
    fun hp b => blockStep_ready (s := { s with answer := b }) hp, fun i j hf hj hij => exec_busy i hf hj hij⟩
  rw [eventEnabled, Bool.and_eq_true, beq_iff_eq]

/-! ### The other agents after a fault -/

/-- The state with these faults recorded (dmaTxStep_withFaults and the lemmas beside it). -/
def withFaults (f : List Reason) (c : Byte) (s : State) : State := { s with faults := f, faultCode := c }

/-- An admitted byte that is not raced reads as memory holds it (R47, R56). -/
theorem readByte_not_raced {s : State} {a : Nat} (h : admitted s a = true) (hr : a ∉ s.raced) :
    readByte s a = some (Memory.read s.mem a, s) := by
  simp [readByte, h, hr]

theorem readByte_withFaults (f : List Reason) (c : Byte) (s : State) (a : Nat) :
    readByte (withFaults f c s) a = (readByte s a).map (Prod.map id (withFaults f c)) := by
  cases h : admitted s a with
  | false => rw [readByte_refused h, readByte_refused (s := withFaults f c s) h, Option.map_none]
  | true =>
    by_cases hr : a ∈ s.raced
    · rw [readByte_raced h hr, readByte_raced (s := withFaults f c s) h hr]; rfl
    · rw [readByte_not_raced h hr, readByte_not_raced (s := withFaults f c s) h hr]; rfl

/-- Reading a unit does not depend on the recorded faults. -/
theorem memRead_withFaults (f : List Reason) (c : Byte) (s : State) (a n : Nat) :
    memRead (withFaults f c s) a n = (memRead s a n).map (Prod.map id (withFaults f c)) := by
  unfold memRead
  rw [readByte_withFaults]
  cases readByte s a with
  | none => rfl
  | some lo =>
    by_cases hn : n = 1
    · simp [hn]
    · simp only [Option.map_some, Prod.map, if_neg hn, readByte_withFaults]
      cases readByte lo.2 (a + 1) <;> rfl

theorem writeByte_withFaults (f : List Reason) (c : Byte) (s : State) (a : Nat) (v : Byte) :
    writeByte (withFaults f c s) a v = (writeByte s a v).map (withFaults f c) := by
  cases h : admitted s a with
  | false => rw [writeByte_refused h, writeByte_refused (s := withFaults f c s) h, Option.map_none]
  | true => rw [writeByte_admitted h, writeByte_admitted (s := withFaults f c s) h]; rfl

/-- Storing a unit does not depend on the recorded faults. -/
theorem memWrite_withFaults (f : List Reason) (c : Byte) (s : State) (a n : Nat) (v : FifoUnit) :
    memWrite (withFaults f c s) a n v = (memWrite s a n v).map (withFaults f c) := by
  unfold memWrite
  rw [writeByte_withFaults]
  cases writeByte s a (v.setWidth 8) with
  | none => rfl
  | some t =>
    by_cases hn : n = 1
    · simp [hn]
    · simp only [Option.map_some, if_neg hn, writeByte_withFaults]

/-- A DMA_TX step does not depend on the recorded faults (R115). -/
theorem dmaTxStep_withFaults (f : List Reason) (c : Byte) (s : State) :
    dmaTxStep (withFaults f c s) = withFaults f c (dmaTxStep s) := by
  by_cases h : TxReady s
  · obtain ⟨g, off, hat, -⟩ := exists_segAt_of_lt_segTotal h.2.1
    cases hk : g.kind with
    | scratch => rw [dmaTxStep_scratch h hat hk, dmaTxStep_scratch (s := withFaults f c s) h hat hk]; rfl
    | buf =>
      have hread' := memRead_withFaults f c s (g.addr + off) (legUnit s.leg)
      cases hread : memRead s (g.addr + off) (legUnit s.leg) with
      | none =>
        rw [hread] at hread'
        rw [dmaTxStep_refused hat hk hread, dmaTxStep_refused (s := withFaults f c s) hat hk hread']
      | some vt =>
        obtain ⟨v, t⟩ := vt
        obtain ⟨n, rfl⟩ := memRead_some hread
        rw [hread] at hread'
        rw [dmaTxStep_buf h hat hk hread, dmaTxStep_buf (s := withFaults f c s) h hat hk hread']; rfl
  · rw [dmaTxStep_of_not_ready h, dmaTxStep_of_not_ready (s := withFaults f c s) h]

/-- A DMA_RX step does not depend on the recorded faults (R115). -/
theorem dmaRxStep_withFaults (f : List Reason) (c : Byte) (s : State) :
    dmaRxStep (withFaults f c s) = withFaults f c (dmaRxStep s) := by
  by_cases h : RxReady s
  · obtain ⟨g, off, hat, -⟩ := exists_segAt_of_lt_segTotal h.2.1
    obtain ⟨u, q, hq⟩ := List.exists_cons_of_ne_nil h.2.2
    cases hk : g.kind with
    | scratch => rw [dmaRxStep_scratch h hq hat hk, dmaRxStep_scratch (s := withFaults f c s) h hq hat hk]; rfl
    | buf =>
      have hwrite' := memWrite_withFaults f c s (g.addr + off) (legUnit s.leg) u
      cases hwrite : memWrite s (g.addr + off) (legUnit s.leg) u with
      | none =>
        rw [hwrite] at hwrite'
        rw [dmaRxStep_refused hq hat hk hwrite, dmaRxStep_refused (s := withFaults f c s) hq hat hk hwrite']
      | some t =>
        obtain ⟨m, r, rfl, -⟩ := memWrite_some hwrite
        rw [hwrite] at hwrite'
        rw [dmaRxStep_buf h hq hat hk hwrite, dmaRxStep_buf (s := withFaults f c s) h hq hat hk hwrite']; rfl
  · rw [dmaRxStep_of_not_ready h, dmaRxStep_of_not_ready (s := withFaults f c s) h]

/-- A CLOCK step does not depend on the recorded faults (R115). -/
theorem clockStep_withFaults (f : List Reason) (c : Byte) (s : State) :
    clockStep (withFaults f c s) = withFaults f c (clockStep s) := by
  have hph : (withFaults f c s).ph = s.ph := rfl
  unfold clockStep
  rw [hph]
  cases s.ph <;> rfl

/-- Settles O8: the fault set by `mem_addReason`, BLOCK stopped by `exec_stopped`, the other agents by the lemmas above. -/
theorem faultEntry : Obligations.FaultEntry := by
  refine ⟨fun r s => ⟨rfl, fun q => mem_addReason r q s.faults⟩, fun s hf => ?_, fun s f c v => ⟨rfl,
    dmaTxStep_withFaults f c s, dmaRxStep_withFaults f c s, clockStep_withFaults f c s⟩⟩
  have hbusy : ¬ Free s := fun h => hf h.1
  refine ⟨fun i => exec_stopped i hf, fun b => blockStep_stopped (s := { s with answer := b }) hf,
    fun e i hd => eventStep_not_taken hd fun hopen => hbusy hopen.1, fun off v => hostWrite_of_not_free hbusy off v,
    fun off v hv => ?_, (statusValue_getLsbD s (by decide)).trans (stopped_iff.2 hf)⟩
  show hostRead off s = _
  rw [hostRead, hv]

end Sys2Proof.Machine
end

section
/-! SUPPORT. SR (R39) and IIR (R118) bit by bit. -/

namespace Sys2Proof.Machine

theorem bit_shiftLeft_getLsbD (b : Bool) {k : Nat} (hk : k < 32) (n : Nat) :
    (bit b <<< k).getLsbD n = (decide (n = k) && b) := by
  rw [BitVec.getLsbD_shiftLeft, bit_getLsbD]
  grind

/-- SR bit by bit (R39). -/
theorem srValue_getLsbD (p : Ssp) (n : Nat) :
    (srValue p).getLsbD n =
      (decide (n = 0) && p.txq.length == 0 || decide (n = 1) && decide (p.txq.length < fifoDepth) ||
        decide (n = 2) && rne p || decide (n = 3) && p.rxq.length == fifoDepth ||
        decide (n = 4) && decide (0 < p.txq.length)) := by
  simp only [srValue, BitVec.getLsbD_or, bit_getLsbD, bit_shiftLeft_getLsbD _ (show 1 < 32 by decide),
    bit_shiftLeft_getLsbD _ (show 2 < 32 by decide), bit_shiftLeft_getLsbD _ (show 3 < 32 by decide),
    bit_shiftLeft_getLsbD _ (show 4 < 32 by decide)]

/-- IIR bit by bit (R118). -/
theorem iirValue_getLsbD (q : Params) (p : Ssp) (n : Nat) :
    (iirValue q p).getLsbD n =
      (decide (n = 0) && (ris q p && p.cr1.getLsbD 0) || decide (n = 1) && (tis q p && p.cr1.getLsbD 1) ||
        decide (n = 2) && (p.roris && p.cr1.getLsbD 2)) := by
  simp only [iirValue, BitVec.getLsbD_or, bit_getLsbD, bit_shiftLeft_getLsbD _ (show 1 < 32 by decide),
    bit_shiftLeft_getLsbD _ (show 2 < 32 by decide)]

/-- A word with no bit from k on is 0 once it is shifted right by k. -/
theorem ushiftRight_eq_zero {x : Word} {k : Nat} (h : ∀ n, k ≤ n → x.getLsbD n = false) : x >>> k = 0 := by
  refine BitVec.eq_of_getLsbD_eq fun i _ => ?_
  rw [BitVec.getLsbD_ushiftRight, h _ (Nat.le_add_right k i)]
  exact BitVec.getLsbD_zero.symm

/-- The line is the disjunction of IIR's three bits (R118). -/
theorem irqLine_iff (q : Params) (p : Ssp) : irqLine q p = true ↔ iirValue q p ≠ 0 := by
  have hbits : ∀ a b c : Bool, (a || b || c) = true ↔ bit a ||| bit b <<< 1 ||| bit c <<< 2 ≠ 0 := by decide
  exact hbits _ _ _

/-- Settles O44: the words bit by bit. -/
theorem sspStatusAndInterrupts : Obligations.SspStatusAndInterrupts := by
  intro q p
  refine ⟨?_, ?_, ?_, ?_, ?_, ushiftRight_eq_zero fun n hn => ?_, ?_, ?_, ?_, ushiftRight_eq_zero fun n hn => ?_,
    irqLine_iff q p⟩
  · rw [srValue_getLsbD]; simp
  · show _ ↔ _ < fifoDepth
    rw [srValue_getLsbD]; simp
  · rw [srValue_rne, rne_iff, List.length_pos_iff]
  · rw [srValue_getLsbD]; simp [fifoDepth]
  · rw [srValue_getLsbD]; simp
  · rw [srValue_getLsbD]; grind
  · rw [iirValue_getLsbD]; simp [ris]
  · rw [iirValue_getLsbD]; simp [tis]
  · rw [iirValue_roris, Bool.and_eq_true]
  · rw [iirValue_getLsbD]; grind

end Sys2Proof.Machine
end

section
/-! SUPPORT. The next action: what step runs for each action of the agenda (R119, R120), and the word withFetchWord
places there. -/

namespace Sys2Proof.Machine

/-! ### The agenda -/

/-- The agenda's first action is performed on the state without it. -/
theorem step_of_agenda {s : State} {a : Action} {l : List Action} (h : s.agenda = a :: l) :
    step s = perform a { s with agenda := l } := by
  rw [step, nextAction, consumed, h]

/-- With an empty agenda the free schedule chooses. -/
theorem step_of_empty_agenda {s : State} (h : s.agenda = []) :
    step s = perform (Config.schedule s.tick) { s with tick := s.tick + 1 } := by
  rw [step, nextAction, consumed, h]

/-- A CMD write of a word that decodes runs its instruction (R65, R71). -/
theorem perform_command {s : State} {w : Word} {i : Instr} (h : Free s) (hd : decodeCmd w = .ok i) :
    perform (.host (.write 0x00 w)) s = exec i s := by
  rw [perform_write_cmd h, command, hd]

/-- Settles O4: the agenda's action, then the agent's own lemma. -/
theorem stepRunsTheDecodedInstruction : Obligations.StepRunsTheDecodedInstruction := by
  intro s l
  refine ⟨fun w i hl h hd => ?_, fun e i hl h hd he => ?_, fun b i hl hi => ?_, fun a => step_of_agenda,
    step_of_empty_agenda⟩
  · rw [step_of_agenda hl]
    exact perform_command (s := { s with agenda := l }) h hd
  · rw [step_of_agenda hl]
    exact eventStep_taken (s := { s with agenda := l }) hd h he
  · have hblock := blockStep_busy (s := { s with agenda := l, answer := b }) hi
    rw [step_of_agenda hl, perform, hblock]
    cases exec i { s with agenda := l, answer := b } <;> rfl

/-! ### The fetched word -/

/-- Arming changes neither PH, nor the recorded faults, nor the agenda. -/
theorem armed_keeps (s : State) (n w : Nat) :
    (armed s n w).ph = s.ph ∧ (armed s n w).faults = s.faults ∧ (armed s n w).agenda = s.agenda := by
  unfold armed
  split
  · split
    · split <;> exact ⟨rfl, rfl, rfl⟩
    · exact ⟨rfl, rfl, rfl⟩
    · exact ⟨rfl, rfl, rfl⟩
  · exact ⟨rfl, rfl, rfl⟩

theorem Free.armed {s : State} (h : Free s) (n w : Nat) : Free (armed s n w) := by
  obtain ⟨hph, hfaults, -⟩ := armed_keeps s n w
  exact ⟨hfaults.trans h.1, hph.trans h.2⟩

/-- The placed word's action is the next one performed, on the armed state. -/
theorem step_withFetchWord (s : State) (n w : Nat) :
    step (s.withFetchWord n w) = perform (wordAction n w) (armed s n w) := by
  have hagenda : { armed s n w with agenda := s.agenda } = armed s n w := by
    rw [← (armed_keeps s n w).2.2]
  rw [step_of_agenda (s := s.withFetchWord n w) rfl]
  exact congrArg _ hagenda

/-- An encoding has a command's width, or an event's (R61, R62). -/
theorem encode_width (i : Instr) : (encode i).1 = if isEvent i then 8 else 32 := rfl

/-- A command needs no arming. -/
theorem armed_command (s : State) {i : Instr} (h : isEvent i = false) : armed s (encode i).1 (encode i).2 = s := by
  rw [armed, encode_width, h]
  exact if_neg (by decide)

/-- A command's word is written to CMD (R65). -/
theorem wordAction_command {i : Instr} (h : isEvent i = false) :
    wordAction (encode i).1 (encode i).2 = .host (.write 0x00 (encodeCmd i)) := by
  have hcode : encodeCmd i = BitVec.ofNat 32 (encode i).2 := (BitVec.ofNat_toNat ..).symm
  rw [wordAction, encode_width, h, hcode]
  rfl

/-- An event's code is handed over by the selector (R62). -/
theorem wordAction_event {i : Instr} (h : isEvent i = true) :
    wordAction (encode i).1 (encode i).2 = .event (encodeEvt i) := by
  have hcode : encodeEvt i = BitVec.ofNat 8 (encode i).2 := by simp [encode, encodeEvt]
  rw [wordAction, encode_width, h, hcode]
  rfl

/-- Arming asserts the interrupt line with LIFE = Attached, or makes the callback pending (R119). -/
theorem eventEnabled_armed (s : State) {i : Instr} (h : isEvent i = true) :
    eventEnabled (armed s (encode i).1 (encode i).2) i = true := by
  cases i with
  | evtIrq =>
    show eventEnabled (if eventEnabled s .evtIrq then s else _) .evtIrq = true
    split
    · assumption
    · simp [eventEnabled, irqLine]
  | evtDmaRxDone => rfl
  | _ => cases h

/-- Settles O6: the placed word decodes to the instruction, and the armed state has it enabled. -/
theorem fetchedWordRunsNext : Obligations.FetchedWordRunsNext := by
  intro s i h
  refine ⟨?_, fun hi => armed_command s hi, fun hi => eventEnabled_armed s hi⟩
  rw [step_withFetchWord]
  cases hi : isEvent i with
  | false =>
    rw [wordAction_command hi]
    exact perform_command (h.armed _ _) (decodeCmd_eq_ok.2 ⟨hi, rfl⟩)
  | true =>
    rw [wordAction_event hi]
    exact eventStep_taken (decodeEvt_eq_ok.2 ⟨hi, rfl⟩) (h.armed _ _) (eventEnabled_armed s hi)

end Sys2Proof.Machine
end

section
/-! SUPPORT. The reset states (R132), whatever the parameters, the launch memory and the draws: the derived values, and
every invariant by the lemma that reduces it at PH = Ready. -/

namespace Sys2Proof.Machine

section
variable {p : Params} {regions : List Region} {mem : List Host.Cell} {cr0 cr1 cpsr : Word} {rxq : List FifoUnit}

/-! ### The derived values -/

theorem chan_resetWith (d : Dir) : chan (State.resetWith p regions mem cr0 cr1 cpsr rxq) d = Chan.reset := by
  cases d <;> rfl

/-- STATUS reads no element that is drawn or a parameter, so it is that of `State.reset` (R44). -/
theorem statusValue_resetWith : statusValue (State.resetWith p regions mem cr0 cr1 cpsr rxq) = 0 :=
  calc statusValue (State.resetWith p regions mem cr0 cr1 cpsr rxq)
    _ = statusValue State.reset := rfl
    _ = 0 := statusAndTableWords.2.1

/-- LIFE = Detached rules out EVT_IRQ, and no callback is pending (R119, R132). -/
theorem eventEnabled_resetWith (i : Instr) :
    eventEnabled (State.resetWith p regions mem cr0 cr1 cpsr rxq) i = false := by
  cases i <;> rfl

/-- TXQ is empty, so nothing shifts, even with SSE = 1 in the CR1 drawn (R123). -/
theorem shift_resetWith (v : FifoUnit) :
    perform (.shift v) (State.resetWith p regions mem cr0 cr1 cpsr rxq) =
      .next (State.resetWith p regions mem cr0 cr1 cpsr rxq) :=
  (shiftMovesOneUnit _).1 v (.inr rfl)

/-! ### The invariants -/

theorem noLeg_resetWith : NoLeg (State.resetWith p regions mem cr0 cr1 cpsr rxq) := ⟨rfl, rfl⟩

/-- No address races yet, so the launch memory alone has to be in canonical form. -/
theorem memInv_resetWith (hmem : Memory.wf mem = true) : MemInv (State.resetWith p regions mem cr0 cr1 cpsr rxq) :=
  ⟨hmem, .nil, .nil, nofun⟩

theorem faultInv_resetWith : FaultInv (State.resetWith p regions mem cr0 cr1 cpsr rxq) :=
  ⟨.nil, fun _ => rfl, fun h => absurd rfl h⟩

theorem modeInv_resetWith : ModeInv (State.resetWith p regions mem cr0 cr1 cpsr rxq) :=
  ⟨fun _ => noLeg_resetWith, .inl noLeg_resetWith⟩

/-- RXQ is drawn, and only its length has to fit. -/
theorem fifoInv_resetWith (hrxq : rxq.length ≤ fifoDepth) :
    FifoInv (State.resetWith p regions mem cr0 cr1 cpsr rxq) :=
  ⟨Nat.zero_le _, Nat.zero_le _, hrxq, nofun⟩

theorem cursorInv_resetWith : CursorInv (State.resetWith p regions mem cr0 cr1 cpsr rxq) :=
  cursorInv_of_noLeg noLeg_resetWith rfl

/-- Nothing is mapped, described or registered. -/
theorem dmaInv_resetWith : DmaInv (State.resetWith p regions mem cr0 cr1 cpsr rxq) :=
  (dmaInv_iff_settled rfl).2 ⟨nofun, fun _ => ⟨rfl, rfl, rfl, rfl, rfl⟩⟩

theorem pendInv_resetWith : PendInv (State.resetWith p regions mem cr0 cr1 cpsr rxq) :=
  pendInv_of_phase (i := .attach) (.inl rfl) (by decide) nofun

/-- No resource is held. -/
theorem resourceInv_resetWith : ResourceInv (State.resetWith p regions mem cr0 cr1 cpsr rxq) :=
  have ha : ∀ k, Phase.ready ≠ .attach k := nofun
  have hd : ∀ k, Phase.ready ≠ .detach k := nofun
  (resourceInv_iff_settled ha hd).2 ⟨fun _ => rfl, rfl, rfl, rfl, rfl⟩

/-- CR1 is drawn: it is free while detached and not prepared. -/
theorem cr1Inv_resetWith : Cr1Inv (State.resetWith p regions mem cr0 cr1 cpsr rxq) :=
  cr1Inv_of_plain rfl ⟨nofun, nofun, fun h => absurd rfl h⟩ nofun

end

/-- Settles O47: the derived values by their lemmas, every other element as `State.resetWith` lists it. -/
theorem resetState : Obligations.ResetState := by
  intro p regions mem cr0 cr1 cpsr rxq s
  refine ⟨rfl, rfl, rfl, rfl, rfl, rfl, rfl, rfl, rfl, rfl, rfl, rfl, rfl, rfl, rfl, rfl, rfl, rfl, rfl, rfl, rfl, rfl,
    rfl, rfl, fun d => ?_, rfl, rfl, rfl, rfl, rfl, rfl, rfl, statusValue_resetWith, eventEnabled_resetWith, shift_resetWith⟩
  rw [show chan s d = Chan.reset from chan_resetWith d]
  exact ⟨rfl, rfl, rfl, rfl, rfl, rfl⟩

/-- Settles O48: each invariant by its lemma, with the conditions on the launch memory and on the RXQ drawn. -/
theorem resetMeetsTheInvariants : Obligations.ResetMeetsTheInvariants :=
  ⟨rfl, fun _ _ _ _ _ _ _ hmem hrxq =>
    ⟨memInv_resetWith hmem, faultInv_resetWith, modeInv_resetWith, fifoInv_resetWith hrxq, cursorInv_resetWith,
      dmaInv_resetWith, pendInv_resetWith, resourceInv_resetWith, cr1Inv_resetWith⟩⟩

end Sys2Proof.Machine
end
